-- ==== Sys2Proof/Word.lean ====
section
/-! DEFINITION. The word types of FCCORE: a byte of a wire sequence, a 32-bit host datum and an 18-bit host byte offset (spec/00_scope.md R10, spec/20_memory.md R60, R61). -/

namespace Sys2Proof

/-- One byte of a buffer or of a wire encoding. -/
abbrev Byte := BitVec 8

/-- A 32-bit host datum; also a command word (R80). -/
abbrev Word := BitVec 32

/-- A host byte offset of HOST_ADDR_BITS = 18 bits (R9, R60). -/
abbrev Addr := BitVec 18

/-- A byte sequence; index 0 is the first byte on the wire (R10). -/
abbrev Bytes := List Byte

end Sys2Proof
end

