-- ==== Sys2Proof/Config.lean ====
section
/-! DEFINITION. What one FCCORE fixes and the spec leaves open: the parameters of spec/00_scope.md R9, the free values of spec/10_state.md R38 and R41 and spec/70_reset_and_hazards.md R241, and the host-side parameter of spec/43_fip.md R185. The constants without a body are free: nothing in Lean can evaluate them. -/

namespace Sys2Proof

/-- The single supported FIP protocol version (R170). -/
def Config.fipVersion : BitVec 4 := 1#4

/-- The seed of the open parameter PAY_MAX (log 1). -/
opaque Config.payMaxSeed : Nat

/-- PAY_MAX, the capacity of the PAY buffer: exactly the values R9 allows, a multiple of 4 from 4 to 65500, since 65500 = 4 * 16375 (log 1). -/
def Config.payMax : Nat := 4 * (Config.payMaxSeed % 16375 + 1)

/-- WIRE_MAX, the capacity of the WIRE buffer (R9). -/
def Config.wireMax : Nat := Config.payMax + 36

/-- The slope K of R250's linear bound, less 1 (log 2). -/
opaque Config.latSlopeSeed : Nat

/-- The seed of the open parameter LAT, for a command word and a number of input bytes (log 2). -/
opaque Config.latSeed : Word → Nat → Nat

/-- The constant K of R250: LAT(op, n) is at most K * (n + 1). -/
def Config.latSlope : Nat := Config.latSlopeSeed + 1

/-- LAT(op, n) of R250 for the command with command word `op` and `n` input bytes: any value from 1 to K * (n + 1) (log 2). -/
def Config.lat (op : Word) (n : Nat) : Nat :=
  Config.latSeed op n % (Config.latSlope * (n + 1)) + 1

/-- The free bytes: draw number `n` of a buffer byte that nothing has written since reset (R41, U6; log 4). -/
opaque Config.freeByte : Nat → Byte

/-- The free words: draw number `n` of a host read while BUSY (R241, U8) or of CRC_ACC between commands (R38, U7); logs 5, 6 and 15. -/
opaque Config.freeWord : Nat → Word

/-- The results of the host-side classification of R185. -/
inductive Operation where
  | discoverySolicitation
  | discoveryAdvertisement
  | virtualLinkInstantiationRequest
  | virtualLinkInstantiationReply
  | keepAlive
  | clearVirtualLinks
  | vlanRequest
  | vlanNotification
  | vendorSpecific
  | reserved
  deriving DecidableEq, Repr, Inhabited

/-- The part of the host-side parameter `classifyOp` that R185 leaves open (U17; log 18). -/
opaque Config.classifyRest : BitVec 16 → BitVec 8 → Operation

end Sys2Proof
end

