-- ==== Sys2Proof/Syntax.lean ====
section
/-! DEFINITION. The commands of FCCORE: one constructor for each row of spec/opcode_table.json (spec/30_encoding.md R81). A command carries no operand (R86): each reads and writes the fixed registers and buffers its rule names. -/

namespace Sys2Proof

/-- The six commands (R2, R81). -/
inductive Instr where
  /-- HDR.ENC, R124 -/
  | hdrEnc
  /-- HDR.DEC, R126 -/
  | hdrDec
  /-- FRM.ENC, R146 -/
  | frmEnc
  /-- FRM.DEC, R157 -/
  | frmDec
  /-- FIP.ENC, R174 -/
  | fipEnc
  /-- FIP.DEC, R180 -/
  | fipDec
  deriving DecidableEq, Repr

end Sys2Proof
end

