-- ==== Sys2Proof/Machine/Records.lean ====
section
/-! DEFINITION. The record types of spec/00_scope.md R13 with the field widths of the source, the status outcomes, and the events of the host interface (spec/20_memory.md R60, R61; spec/70_reset_and_hazards.md R230). -/

namespace Sys2Proof.Machine

/-- The status outcomes of a command (R13, R84). -/
inductive Status where
  | ok
  | bufferTooShort
  | lengthMismatch
  | invalidFrame
  | invalidCrc
  | missingHeader
  | invalidVersion
  | badOp
  deriving DecidableEq, Repr

/-- An ordered array of three bytes; `e0` is the first on the wire (R13, R122). -/
structure Bytes3 where
  e0 : Byte
  e1 : Byte
  e2 : Byte
  deriving DecidableEq, Repr

/-- The Header record (R13, R120). -/
structure Header where
  rctl   : Byte
  did    : Bytes3
  prio   : Byte
  sid    : Bytes3
  typ    : Byte
  fctl   : Bytes3
  seqid  : Byte
  dfctl  : Byte
  seqcnt : BitVec 16
  oxid   : BitVec 16
  rxid   : BitVec 16
  param  : BitVec 32
  deriving DecidableEq, Repr

/-- The Frame record (R13). A Frame may lack its Header; it can then not be encoded (R141). -/
structure Frame where
  sof     : Byte
  hdr     : Option Header
  payload : Bytes
  eof     : Byte
  deriving DecidableEq, Repr

/-- The FipFrame record (R13). -/
structure FipFrame where
  version : BitVec 4
  proto   : BitVec 16
  subcode : BitVec 8
  dll     : BitVec 16
  fpma    : Bool
  spma    : Bool
  afl     : Bool
  sol     : Bool
  fcf     : Bool
  deriving DecidableEq, Repr

/-- The two byte buffers (R36, R37). -/
inductive Buffer where
  | wire
  | pay
  deriving DecidableEq, Repr

/-- The host-visible registers of R23, by name. -/
inductive Reg where
  | cmd | status | wireLen | payLen | frmSof | frmEof | frmHdrv
  | hdrRctl | hdrDid | hdrPrio | hdrSid | hdrType | hdrFctl
  | hdrSeqid | hdrDfctl | hdrSeqcnt | hdrOxid | hdrRxid | hdrParam
  | fipVer | fipProto | fipSub | fipDll | fipFlags
  deriving DecidableEq, Repr

/-- A host access (R61) of `bits` bits at byte offset `a`. The only width in the contract is 32 bits; the others are refused (R65). -/
inductive HostAccess where
  | read  (bits : Nat) (a : Addr)
  | write (bits : Nat) (a : Addr) (v : Word)
  deriving DecidableEq, Repr

/-- What one step of the machine serves. -/
inductive HostEvent where
  /-- a host access (R61) -/
  | access (acc : HostAccess)
  /-- the reset input is driven to this level (R230) -/
  | resetInput (asserted : Bool)
  /-- no host activity: the engine runs one cycle (R250) -/
  | cycle
  deriving DecidableEq, Repr

/-- What a host read returned (R61). -/
structure HostReply where
  addr : Addr
  data : Word
  deriving DecidableEq, Repr

end Sys2Proof.Machine
end

