-- ==== Sys2Proof/WellFormed.lean ====
section
/-! DEFINITION. When a command word, a record and a host access are well formed. Every term of Instr is a command, since a command has no operands (spec/30_encoding.md R86); what can be ill formed is the word (R80 to R82), a Frame or FipFrame given to an encoder (spec/42_frame.md R141, spec/43_fip.md R172) and a host access (spec/20_memory.md R61, R65). -/

namespace Sys2Proof

/-- A 32-bit word is a command word that selects a command: RES is zero and OP is 1 to 6 (R81, R82). -/
def wellFormedWord (v : Word) : Bool :=
  v.extractLsb' 3 29 == 0#29 && v.extractLsb' 0 3 != 0#3 && v.extractLsb' 0 3 != 7#3

/-- A command has no operand that could be out of range (R86): each of the six is well formed. What can be ill formed is the word it is read from, `wellFormedWord`. -/
def Instr.wellFormed : Instr → Bool
  | .hdrEnc => true
  | .hdrDec => true
  | .frmEnc => true
  | .frmDec => true
  | .fipEnc => true
  | .fipDec => true

namespace Machine

/-- A Frame that can be encoded has a Header (R141). -/
def Frame.wellFormed (f : Frame) : Bool :=
  f.hdr.isSome

/-- A FipFrame that can be encoded has the supported version (R172). -/
def FipFrame.wellFormed (f : FipFrame) : Bool :=
  f.version == Config.fipVersion

/-- The form of a host access: 32 bits wide at a multiple of 4 (R61, R65). Whether the offset is mapped is R64, checked by the host port. -/
def HostAccess.wellFormed : HostAccess → Bool
  | .read bits a    => bits == 32 && a.toNat % 4 == 0
  | .write bits a _ => bits == 32 && a.toNat % 4 == 0

end Machine

end Sys2Proof
end

