-- ==== Sys2Proof/Decode.lean ====
section
/-! DEFINITION. The decoder of command words, total on every 32-bit value (spec/30_encoding.md R88), the encoder written from the same table (R80, R81), and the decoder in the opcode table's bit numbering. -/

namespace Sys2Proof

/-- Why a word selects no command (R82, R83). Each of these words completes with BAD_OP. -/
inductive DecodeError where
  /-- RES, bits 31:3, is not zero (R82) -/
  | reservedBits
  /-- OP = 0b000 (R83) -/
  | reservedOp0
  /-- OP = 0b111 (R83) -/
  | reservedOp7
  deriving DecidableEq, Repr

/-- The command that an OP field selects (R81). -/
def decodeOp (op : BitVec 3) : Except DecodeError Instr :=
  match op.toNat with
  | 0 => .error .reservedOp0
  | 1 => .ok .hdrEnc
  | 2 => .ok .hdrDec
  | 3 => .ok .frmEnc
  | 4 => .ok .frmDec
  | 5 => .ok .fipEnc
  | 6 => .ok .fipDec
  | _ => .error .reservedOp7

/-- decodeCmd of R88: RES is checked first, then OP selects. -/
def decodeCmd (v : Word) : Except DecodeError Instr :=
  if v.extractLsb' 3 29 = 0#29 then decodeOp (v.extractLsb' 0 3)
  else .error .reservedBits

/-- The OP field that the table gives a command (R81). -/
def Instr.op : Instr → BitVec 3
  | .hdrEnc => 0b001#3
  | .hdrDec => 0b010#3
  | .frmEnc => 0b011#3
  | .frmDec => 0b100#3
  | .fipEnc => 0b101#3
  | .fipDec => 0b110#3

/-- The command word of a command: OP in bits 2:0, RES zero (R80). -/
def encode (i : Instr) : Word :=
  0#29 ++ i.op

/-- The decoder on an instruction given in the opcode table's numbering: the first `nbits` bits of `w`, every bit above them 0. A command word is one 32-bit host datum, so bit k of the row is bit k of the word. -/
def decodeTableWord (nbits w : Nat) : Option Instr :=
  let v := w % 2 ^ nbits
  if v < 2 ^ 32 then (decodeCmd (BitVec.ofNat 32 v)).toOption else none

end Sys2Proof
end

