-- ==== Sys2Proof/Machine/State.lean ====
section
/-! DEFINITION. The state of FCCORE (spec/10_state.md R22): the host-visible registers of R23, the two buffers (R36, R37), CRC_ACC (R38) and the engine phase (R39); beside them the reset input (spec/70_reset_and_hazards.md R230) and the model's own bookkeeping. Plain data throughout. -/

namespace Sys2Proof.Machine

/-- A buffer's contents: the bytes written since reset, by offset, offsets strictly rising. An offset that is not listed holds no defined value (R41). -/
abbrev Memory := List Host.Cell

/-- The twelve HDR_* registers (R31), each at its field's width; a 3-byte array has element 0 in bits 23:16 (R32). -/
structure HdrRegs where
  rctl   : BitVec 8
  did    : BitVec 24
  prio   : BitVec 8
  sid    : BitVec 24
  typ    : BitVec 8
  fctl   : BitVec 24
  seqid  : BitVec 8
  dfctl  : BitVec 8
  seqcnt : BitVec 16
  oxid   : BitVec 16
  rxid   : BitVec 16
  param  : BitVec 32
  deriving DecidableEq, Repr

/-- FIP_VER, FIP_PROTO, FIP_SUB, FIP_DLL (R33) and the five flags of FIP_FLAGS (R34). -/
structure FipRegs where
  ver   : BitVec 4
  proto : BitVec 16
  sub   : BitVec 8
  dll   : BitVec 16
  fpma  : Bool
  spma  : Bool
  afl   : Bool
  sol   : Bool
  fcf   : Bool
  deriving DecidableEq, Repr

/-- The engine phase (R39), which STATUS exposes exactly (R25, R26). -/
inductive Engine where
  /-- IDLE, with the status of the last completed command, if one has completed since reset (DONE = 1) -/
  | idle (last : Option Status)
  /-- BUSY, with the latched command word and the engine cycles left (the count is the model's own, log 2) -/
  | busy (cmd : Word) (left : Nat)
  deriving DecidableEq, Repr

/-- FCCORE has no trap and no behaviour that hangs (R206, R251; spec/93_implementation_defined.md never uses `stuck`): a failing command completes with a status code. So no step faults, and this type has no constructor. -/
inductive Fault where
  deriving DecidableEq, Repr

/-- Why the model gives a step no meaning: each is a host step outside the interface contract (R66). The run ends there, which is R66's refusal mark (log 7). All are safe: nothing can be proved of a run past one. -/
inductive Refusal where
  /-- raised by exec for a command that has no meaning yet (none is left); safe -/
  | notModelled (mnemonic : String)
  /-- raised by the host port: an access while the reset input is asserted (R230); safe -/
  | accessDuringReset
  /-- raised by the host port: an access that is not 32 bits wide (R65); safe -/
  | accessNotWord (bits : Nat)
  /-- raised by the host port: an address that is not a multiple of 4 (R65); safe -/
  | misaligned (a : Addr)
  /-- raised by the host port: an offset that is not mapped (R64); safe -/
  | unmapped (a : Addr)
  /-- raised by the host port: a host write while BUSY, a second CMD write among them (R240); safe -/
  | writeWhileBusy (a : Addr)
  /-- raised by the host port: WIRE_LEN above WIRE_MAX or PAY_LEN above PAY_MAX (R27, R28, R66); safe -/
  | lengthAboveCapacity (v : Word)
  deriving DecidableEq, Repr

/-- The machine. -/
structure State where
  /-- the engine phase with the last status: what STATUS shows (R25, R39) -/
  engine  : Engine
  /-- WIRE_LEN (R27) -/
  wireLen : BitVec 17
  /-- PAY_LEN (R28) -/
  payLen  : BitVec 17
  /-- FRM_SOF (R29) -/
  frmSof  : Byte
  /-- FRM_EOF (R29) -/
  frmEof  : Byte
  /-- FRM_HDRV (R30) -/
  frmHdrv : Bool
  /-- the HDR_* registers (R31) -/
  hdr     : HdrRegs
  /-- the FIP_* registers (R33, R34) -/
  fip     : FipRegs
  /-- the WIRE buffer (R36) -/
  wire    : Memory
  /-- the PAY buffer (R37) -/
  pay     : Memory
  /-- CRC_ACC (R38) -/
  crcAcc  : Word
  /-- the reset input is asserted (R230) -/
  inReset : Bool
  /-- the model's own: free values taken so far (log 4) -/
  draws   : Nat
  /-- the model's own: what the outside world does next (log 3) -/
  inputs  : List HostEvent
  /-- the model's own: what host reads have returned, newest first (log 13) -/
  replies : List HostReply
  deriving DecidableEq, Repr

/-- The HDR_* registers after reset: all zero (R31, R41). -/
def HdrRegs.reset : HdrRegs :=
  { rctl := 0, did := 0, prio := 0, sid := 0, typ := 0, fctl := 0, seqid := 0, dfctl := 0,
    seqcnt := 0, oxid := 0, rxid := 0, param := 0 }

/-- The FIP_* registers after reset: all zero (R33, R34, R41). -/
def FipRegs.reset : FipRegs :=
  { ver := 0, proto := 0, sub := 0, dll := 0,
    fpma := false, spma := false, afl := false, sol := false, fcf := false }

/-- The state right after reset is released (R41, R230). Nothing is listed in the buffers: every byte of them is unspecified. CRC_ACC is given no value by the spec; 0 is a DESIGN CHOICE (log 5). -/
def State.reset : State :=
  { engine := .idle none, wireLen := 0, payLen := 0, frmSof := 0, frmEof := 0, frmHdrv := false,
    hdr := .reset, fip := .reset, wire := [], pay := [], crcAcc := 0, inReset := false,
    draws := 0, inputs := [], replies := [] }

end Sys2Proof.Machine
end

