-- ==== Sys2Proof/Machine/Flags.lean ====
section
/-! DEFINITION. The flag computations: the STATUS register (spec/10_state.md R25, R26; spec/30_encoding.md R84) and the two FIP flag layouts (spec/10_state.md R34, spec/43_fip.md R173). -/

namespace Sys2Proof.Machine

/-- The CODE number of a status (R84). -/
def Status.code : Status → BitVec 3
  | .ok             => 0#3
  | .bufferTooShort => 1#3
  | .lengthMismatch => 2#3
  | .invalidFrame   => 3#3
  | .invalidCrc     => 4#3
  | .missingHeader  => 5#3
  | .invalidVersion => 6#3
  | .badOp          => 7#3

/-- STATUS laid out from its fields: BUSY bit 0, DONE bit 1, CODE bits 6:4, all other bits 0 (R25). -/
def packStatus (busy done : Bool) (code : BitVec 3) : Word :=
  0#25 ++ code ++ 0#2 ++ BitVec.ofBool done ++ BitVec.ofBool busy

/-- What STATUS reads in an engine phase (R25, R26, R39): CODE reads 0 while DONE = 0. -/
def Engine.statusWord : Engine → Word
  | .busy _ _         => packStatus true false 0#3
  | .idle none        => packStatus false false 0#3
  | .idle (some last) => packStatus false true last.code

/-- STATUS.BUSY (R25). -/
def Engine.isBusy : Engine → Bool
  | .busy _ _ => true
  | .idle _   => false

/-- What a read of STATUS returns (R25). -/
def State.statusWord (s : State) : Word :=
  s.engine.statusWord

/-- STATUS.BUSY (R25). -/
def State.isBusy (s : State) : Bool :=
  s.engine.isBusy

/-- FIP_FLAGS: FPMA bit 15, SPMA bit 14, AFL bit 2, SOL bit 1, FCF bit 0, all other bits 0 (R34). -/
def FipRegs.flagsWord (r : FipRegs) : Word :=
  0#16 ++ BitVec.ofBool r.fpma ++ BitVec.ofBool r.spma ++ 0#11 ++ BitVec.ofBool r.afl
    ++ BitVec.ofBool r.sol ++ BitVec.ofBool r.fcf

/-- FIP_FLAGS after a write of `v`: the five flag bits are kept, the others ignored (R34, R35). -/
def FipRegs.withFlags (r : FipRegs) (v : Word) : FipRegs :=
  { r with fpma := v.getLsbD 15, spma := v.getLsbD 14, afl := v.getLsbD 2, sol := v.getLsbD 1,
           fcf := v.getLsbD 0 }

/-- A flag as the byte with bit 0 equal to it, before it is shifted into place (R173). -/
def flagByte (b : Bool) : Byte :=
  0#7 ++ BitVec.ofBool b

/-- Wire byte 8 of a FipFrame: (FPMA << 7) or (SPMA << 6) (R173). -/
def FipFrame.flagByte8 (f : FipFrame) : Byte :=
  flagByte f.fpma <<< 7 ||| flagByte f.spma <<< 6

/-- Wire byte 9 of a FipFrame: (AFL << 2) or (SOL << 1) or FCF (R173). -/
def FipFrame.flagByte9 (f : FipFrame) : Byte :=
  flagByte f.afl <<< 2 ||| flagByte f.sol <<< 1 ||| flagByte f.fcf

end Sys2Proof.Machine
end

