-- ==== Sys2Proof/Machine/Operands.lean ====
section
/-! DEFINITION. The operand forms: byte-order helpers (spec/00_scope.md R10, R11), and the register-to-record views that need no buffer (spec/10_state.md R32, R40). -/

namespace Sys2Proof.Machine

/-- Byte `i` of a sequence, for an `i` below its length (R10); past the end, which no rule reads, it is 0. -/
def byteAt (b : Bytes) (i : Nat) : Byte :=
  b.getD i 0#8

/-- The half-open subsequence b[i..j) (R10). -/
def slice (b : Bytes) (i j : Nat) : Bytes :=
  (b.drop i).take (j - i)

/-- n zero bytes (R10). -/
def zeros (n : Nat) : Bytes :=
  List.replicate n 0#8

/-- The 2 bytes of an integer, most significant first (R11). -/
def be16 (x : BitVec 16) : Bytes :=
  [x.extractLsb' 8 8, x.extractLsb' 0 8]

/-- The 4 bytes of an integer, most significant first (R11). -/
def be32 (x : BitVec 32) : Bytes :=
  [x.extractLsb' 24 8, x.extractLsb' 16 8, x.extractLsb' 8 8, x.extractLsb' 0 8]

/-- The 3-byte array of a 24-bit register value: element 0 is bits 23:16 (R11, R32). -/
def be24 (x : BitVec 24) : Bytes3 :=
  { e0 := x.extractLsb' 16 8, e1 := x.extractLsb' 8 8, e2 := x.extractLsb' 0 8 }

/-- The 24-bit register value of a 3-byte array (R32). -/
def unbe24 (a : Bytes3) : BitVec 24 :=
  a.e0 ++ a.e1 ++ a.e2

/-- The unsigned integer whose big-endian encoding is `b` (R11). -/
def unbe (b : Bytes) : Nat :=
  b.foldl (fun n x => n * 256 + x.toNat) 0

/-- The bytes of a 3-byte array in array order (R122). -/
def Bytes3.toBytes (a : Bytes3) : Bytes :=
  [a.e0, a.e1, a.e2]

/-- The 3-byte array at offset `i` of a sequence (R122). -/
def bytes3At (b : Bytes) (i : Nat) : Bytes3 :=
  { e0 := byteAt b i, e1 := byteAt b (i + 1), e2 := byteAt b (i + 2) }

/-- readHeader() of R40. -/
def State.readHeader (s : State) : Header :=
  { rctl := s.hdr.rctl, did := be24 s.hdr.did, prio := s.hdr.prio, sid := be24 s.hdr.sid,
    typ := s.hdr.typ, fctl := be24 s.hdr.fctl, seqid := s.hdr.seqid, dfctl := s.hdr.dfctl,
    seqcnt := s.hdr.seqcnt, oxid := s.hdr.oxid, rxid := s.hdr.rxid, param := s.hdr.param }

/-- writeHeader(h) of R40: every HDR_* register takes the matching field, a 3-byte array as its big-endian integer (R32). -/
def State.writeHeader (s : State) (h : Header) : State :=
  { s with hdr :=
    { rctl := h.rctl, did := unbe24 h.did, prio := h.prio, sid := unbe24 h.sid, typ := h.typ,
      fctl := unbe24 h.fctl, seqid := h.seqid, dfctl := h.dfctl, seqcnt := h.seqcnt,
      oxid := h.oxid, rxid := h.rxid, param := h.param } }

/-- readFip() of R40. -/
def State.readFip (s : State) : FipFrame :=
  { version := s.fip.ver, proto := s.fip.proto, subcode := s.fip.sub, dll := s.fip.dll,
    fpma := s.fip.fpma, spma := s.fip.spma, afl := s.fip.afl, sol := s.fip.sol, fcf := s.fip.fcf }

/-- writeFip(f) of R40. -/
def State.writeFip (s : State) (f : FipFrame) : State :=
  { s with fip :=
    { ver := f.version, proto := f.proto, sub := f.subcode, dll := f.dll, fpma := f.fpma,
      spma := f.spma, afl := f.afl, sol := f.sol, fcf := f.fcf } }

end Sys2Proof.Machine
end

