-- ==== Sys2Proof/Machine/Ops.lean ====
section
/-! DEFINITION. The shared operations: the buffers (spec/20_memory.md R63, R68; spec/10_state.md R36, R37, R41), the length registers, the acceptance and the completion of a command (spec/10_state.md R26, spec/60_exceptions.md R200, R203), reset (spec/10_state.md R41, R42) and the Frame view of R40. -/

namespace Sys2Proof.Machine

/-! ### A buffer -/

/-- What an unlisted offset reads as: no value (R41). A read of it is a fresh draw, which `Memory.readAll` takes (log 4). -/
def Memory.unlisted : Option Byte := none

/-- The byte at offset `k`, if something has written it since reset. -/
def Memory.byteAt? : Memory → Nat → Option Byte
  | [], _ => Memory.unlisted
  | (a, b) :: m, k => if a = k then some b else Memory.byteAt? m k

/-- Write the byte at offset `k`, keeping offsets strictly rising. -/
def Memory.put : Memory → Nat → Byte → Memory
  | [], k, v => [(k, v)]
  | (a, b) :: m, k, v =>
    if k < a then (k, v) :: (a, b) :: m
    else if k = a then (k, v) :: m
    else (a, b) :: Memory.put m k v

/-- Write a byte sequence from offset `off` on, the first byte at `off` (MemWrite of R68). -/
def Memory.putAll (m : Memory) (off : Nat) : Bytes → Memory
  | [] => m
  | v :: vs => Memory.putAll (m.put off v) (off + 1) vs

/-- Read `n` bytes from offset `off` on, with `d` free values taken before; answers the bytes and how many free values are taken after. A byte that nothing has written is the next free value (R41); draws go in rising offset order. -/
def Memory.readAll (m : Memory) (off : Nat) : Nat → Nat → Bytes × Nat
  | 0, d => ([], d)
  | n + 1, d =>
    match m.byteAt? off with
    | some b => let r := Memory.readAll m (off + 1) n d; (b :: r.1, r.2)
    | none   => let r := Memory.readAll m (off + 1) n (d + 1); (Config.freeByte d :: r.1, r.2)

/-- The canonical form: offsets strictly rising. An entry always holds a byte and an unlisted offset none, so no entry equals what an unlisted offset reads as. -/
abbrev Memory.wf (m : Memory) : Prop :=
  m.Pairwise (fun x y => x.1 < y.1)

/-! ### The buffers of the machine -/

/-- The contents of a buffer. -/
def State.buf (s : State) : Buffer → Memory
  | .wire => s.wire
  | .pay  => s.pay

/-- The machine with the contents of a buffer replaced. -/
def State.setBuf (s : State) : Buffer → Memory → State
  | .wire, m => { s with wire := m }
  | .pay,  m => { s with pay := m }

/-- The capacity of a buffer (R68). -/
def Buffer.capacity : Buffer → Nat
  | .wire => Config.wireMax
  | .pay  => Config.payMax

/-- The machine with `d` free values taken. -/
def State.setDraws (s : State) (d : Nat) : State :=
  { s with draws := d }

/-- MemRead(BUF, off, n) of R68: the bytes, and the machine after it, which differs in the free values taken only. The capacity R68 requires is the invariant of log 10. -/
def State.memRead (s : State) (buf : Buffer) (off n : Nat) : Bytes × State :=
  let r := (s.buf buf).readAll off n s.draws
  (r.1, s.setDraws r.2)

/-- MemWrite(BUF, off, n, v) of R68, with n the length of v. -/
def State.memWrite (s : State) (buf : Buffer) (off : Nat) (v : Bytes) : State :=
  s.setBuf buf ((s.buf buf).putAll off v)

/-- WIRE_LEN <- n (R27). -/
def State.setWireLen (s : State) (n : Nat) : State :=
  { s with wireLen := BitVec.ofNat 17 n }

/-- PAY_LEN <- n (R28). -/
def State.setPayLen (s : State) (n : Nat) : State :=
  { s with payLen := BitVec.ofNat 17 n }

/-! ### The Frame view of R40 -/

/-- readFrame() of R40, with the free values its payload bytes take. -/
def State.readFrame (s : State) : Frame × State :=
  let r := s.memRead .pay 0 s.payLen.toNat
  ({ sof := s.frmSof, hdr := if s.frmHdrv then some s.readHeader else none, payload := r.1,
     eof := s.frmEof }, r.2)

/-- The commit of FRM.DEC (R157): FRM_SOF, FRM_EOF, the header registers, FRM_HDRV, PAY[0..len) and PAY_LEN. A decoded Frame always has its Header. -/
def State.writeFrame (s : State) (f : Frame) : State :=
  let s1 := match f.hdr with
    | some h => s.writeHeader h
    | none   => s
  let s2 := { s1 with frmSof := f.sof, frmEof := f.eof, frmHdrv := f.hdr.isSome }
  (s2.memWrite .pay 0 f.payload).setPayLen f.payload.length

/-! ### The life of a command -/

/-- The number of input bytes of a command word, the n of LAT(op, n) (R250). A word that selects no command reads no input (R83), so its n is 0 (log 16). -/
def State.inputBytes (s : State) (v : Word) : Nat :=
  match decodeCmd v with
  | .ok .hdrEnc => 24
  | .ok .hdrDec => s.wireLen.toNat
  | .ok .frmEnc => 24 + s.payLen.toNat
  | .ok .frmDec => s.wireLen.toNat
  | .ok .fipEnc => 10
  | .ok .fipDec => s.wireLen.toNat
  | .error _    => 0

/-- The acceptance of a command word (R24, R26): BUSY <- 1, DONE <- 0, CODE <- 0, the word latched (R39). -/
def State.accept (s : State) (v : Word) : State :=
  { s with engine := .busy v (Config.lat v (s.inputBytes v)) }

/-- The completion of a command with a status, OK or a failure (R26, R206): BUSY <- 0, DONE <- 1, CODE <- code(st), and the engine is IDLE. This is all that a failure does (R203): no trap is entered. -/
def State.complete (s : State) (st : Status) : State :=
  { s with engine := .idle (some st) }

/-- The completion of a word that selects no command (R83): it reads no input and writes no register or buffer. -/
def State.completeBadOp (s : State) : State :=
  s.complete .badOp

/-! ### Reset -/

/-- R41's state: every register at its table value, the engine IDLE with DONE = 0, every buffer byte without a defined value, CRC_ACC a free value (R38, U7). A command in progress is aborted and commits nothing (R42, R232). What the host will do and has read stands. -/
def State.resetEngine (s : State) : State :=
  { State.reset with
    crcAcc := Config.freeWord s.draws, draws := s.draws + 1, inReset := s.inReset,
    inputs := s.inputs, replies := s.replies }

/-- The reset input driven to a level (R230, R232). Asserting it resets the machine and holds it in reset; releasing it leaves R41's state. Releasing it when it is not asserted changes nothing (log 8). -/
def State.driveReset (s : State) (asserted : Bool) : State :=
  if asserted then { s.resetEngine with inReset := true }
  else if s.inReset then { s.resetEngine with inReset := false }
  else s

end Sys2Proof.Machine
end

