-- ==== Sys2Proof/Machine/Fip.lean ====
section
/-! DEFINITION. The FIP frame bitfield packer (spec/43_fip.md): fipEncode (R172, R173), fipDecode (R178), and the commands FIP.ENC (R174) and FIP.DEC (R180). -/

namespace Sys2Proof.Machine

/-- fipEncode (R172): exactly 10 bytes, or INVALID_VERSION. -/
def fipEncode (f : FipFrame) : Except Status Bytes :=
  if f.version ≠ Config.fipVersion then .error .invalidVersion
  else .ok ([f.version ++ 0#4, 0x00#8] ++ be16 f.proto ++ [0x00#8, f.subcode] ++ be16 f.dll
    ++ [f.flagByte8, f.flagByte9])

/-- The version nibble is wrong or a reserved bit is set in the first ten bytes (R176, R177). -/
def fipBad (b : Bytes) : Bool :=
  (byteAt b 0).extractLsb' 4 4 != Config.fipVersion || (byteAt b 0).extractLsb' 0 4 != 0#4
    || byteAt b 1 != 0#8 || byteAt b 4 != 0#8 || (byteAt b 8).extractLsb' 0 6 != 0#6
    || (byteAt b 9).extractLsb' 3 5 != 0#5

/-- fipDecode (R178). Bytes from the eleventh on are neither checked nor returned (R179). -/
def fipDecode (b : Bytes) : Except Status FipFrame :=
  if b.length < 10 then .error .bufferTooShort
  else if fipBad b then .error .invalidFrame
  else .ok
    { version := (byteAt b 0).extractLsb' 4 4, proto := BitVec.ofNat 16 (unbe (slice b 2 4)),
      subcode := byteAt b 5, dll := BitVec.ofNat 16 (unbe (slice b 6 8)),
      fpma := (byteAt b 8).getLsbD 7, spma := (byteAt b 8).getLsbD 6,
      afl := (byteAt b 9).getLsbD 2, sol := (byteAt b 9).getLsbD 1, fcf := (byteAt b 9).getLsbD 0 }

/-- FIP.ENC (R174). -/
def execFipEnc (s : State) : Host.Outcome State Fault Refusal :=
  match fipEncode s.readFip with
  | .error st => .next (s.complete st)
  | .ok b     => .next (((s.memWrite .wire 0 b).setWireLen 10).complete .ok)

/-- FIP.DEC (R180): only WIRE[0..10) is read. -/
def execFipDec (s : State) : Host.Outcome State Fault Refusal :=
  if s.wireLen.toNat < 10 then .next (s.complete .bufferTooShort)
  else
    let r := s.memRead .wire 0 10
    match fipDecode r.1 with
    | .error st => .next (r.2.complete st)
    | .ok f     => .next ((r.2.writeFip f).complete .ok)

end Sys2Proof.Machine
end

