-- ==== Sys2Proof/Machine/Crc.lean ====
section
/-! DEFINITION. The CRC32 generator (spec/40_crc32.md): the function crc32 of R104 on byte sequences, and the unit's three operations on CRC_ACC (R100 to R103). -/

namespace Sys2Proof.Machine

/-- The value crcInit sets (R101), and the final XOR of crcFinal (R103). -/
def crcOnes : Word := 0xFFFFFFFF#32

/-- The reflected polynomial of the right-shifting form (R102, R105). -/
def crcPoly : Word := 0xEDB88320#32

/-- One of the eight steps of crcByte (R102). -/
def crcShift (acc : Word) : Word :=
  if acc.getLsbD 0 then acc >>> 1 ^^^ crcPoly else acc >>> 1

/-- crcByte as a function of the accumulator (R102). -/
def crcStep (acc : Word) (b : Byte) : Word :=
  crcShift (crcShift (crcShift (crcShift (crcShift (crcShift (crcShift (crcShift
    (acc ^^^ b.setWidth 32))))))))

/-- The function crc32 of R104. -/
def crc32 (d : Bytes) : Word :=
  d.foldl crcStep crcOnes ^^^ crcOnes

/-- crcInit() (R101). -/
def State.crcInit (s : State) : State :=
  { s with crcAcc := crcOnes }

/-- crcByte(b) (R102). -/
def State.crcByte (s : State) (b : Byte) : State :=
  { s with crcAcc := crcStep s.crcAcc b }

/-- crcFinal() (R103). -/
def State.crcFinal (s : State) : Word :=
  s.crcAcc ^^^ crcOnes

/-- The generator released: between commands CRC_ACC is any value (R38, U7; log 6). -/
def State.crcRelease (s : State) : State :=
  { s with crcAcc := Config.freeWord s.draws, draws := s.draws + 1 }

/-- One use of the generator inside a command (R100): crcInit, then crcByte once per byte of the covered region in rising offset order, then crcFinal. -/
def State.runCrc (s : State) (region : Bytes) : Word × State :=
  let s1 := region.foldl State.crcByte s.crcInit
  (s1.crcFinal, s1.crcRelease)

end Sys2Proof.Machine
end

