-- ==== Sys2Proof/Machine/Header.lean ====
section
/-! DEFINITION. The header codec (spec/41_header.md): hdrEncode (R123), hdrDecode (R125), and the commands HDR.ENC (R124) and HDR.DEC (R126). -/

namespace Sys2Proof.Machine

/-- hdrEncode (R123): exactly 24 bytes, in the order of R120 and the layout of R121. -/
def hdrEncode (h : Header) : Bytes :=
  [h.rctl] ++ h.did.toBytes ++ [h.prio] ++ h.sid.toBytes ++ [h.typ] ++ h.fctl.toBytes
    ++ [h.seqid] ++ [h.dfctl] ++ be16 h.seqcnt ++ be16 h.oxid ++ be16 h.rxid ++ be32 h.param

/-- hdrDecode (R125): exactly 24 bytes, no other check. -/
def hdrDecode (b : Bytes) : Except Status Header :=
  if b.length ≠ 24 then .error .lengthMismatch
  else .ok
    { rctl := byteAt b 0, did := bytes3At b 1, prio := byteAt b 4, sid := bytes3At b 5,
      typ := byteAt b 8, fctl := bytes3At b 9, seqid := byteAt b 12, dfctl := byteAt b 13,
      seqcnt := BitVec.ofNat 16 (unbe (slice b 14 16)),
      oxid := BitVec.ofNat 16 (unbe (slice b 16 18)),
      rxid := BitVec.ofNat 16 (unbe (slice b 18 20)),
      param := BitVec.ofNat 32 (unbe (slice b 20 24)) }

/-- HDR.ENC (R124). -/
def execHdrEnc (s : State) : Host.Outcome State Fault Refusal :=
  .next (((s.memWrite .wire 0 (hdrEncode s.readHeader)).setWireLen 24).complete .ok)

/-- HDR.DEC (R126). -/
def execHdrDec (s : State) : Host.Outcome State Fault Refusal :=
  if s.wireLen.toNat ≠ 24 then .next (s.complete .lengthMismatch)
  else
    let r := s.memRead .wire 0 24
    match hdrDecode r.1 with
    | .error st => .next (r.2.complete st)
    | .ok h     => .next ((r.2.writeHeader h).complete .ok)

end Sys2Proof.Machine
end

