-- ==== Sys2Proof/Machine/Frame.lean ====
section
/-! DEFINITION. The SOF/EOF framer with the padding controller (spec/42_frame.md): frmEncode (R145), frmDecode (R155), and the commands FRM.ENC (R146) and FRM.DEC (R157). -/

namespace Sys2Proof.Machine

/-- The padded payload length ceil4(n) (R11, R142). -/
def ceil4 (n : Nat) : Nat :=
  (n + 3) / 4 * 4

/-- The CRC region on encode (R144, R145): the header and the padded payload. -/
def frmBody (h : Header) (payload : Bytes) : Bytes :=
  hdrEncode h ++ payload ++ zeros (ceil4 payload.length - payload.length)

/-- The wire bytes of a Frame from its parts (R143, R149): the SOF region, the CRC region, the CRC big-endian, the EOF region. -/
def frmAssemble (sof : Byte) (body : Bytes) (crc : Word) (eof : Byte) : Bytes :=
  zeros 3 ++ [sof] ++ body ++ be32 crc ++ [eof] ++ zeros 3

/-- frmEncode (R145). -/
def frmEncode (f : Frame) : Except Status Bytes :=
  match f.hdr with
  | none   => .error .missingHeader
  | some h =>
    let body := frmBody h f.payload
    .ok (frmAssemble f.sof body (crc32 body) f.eof)

/-- The checks of frmDecode that come before the CRC (R151, R152, R154): the failure, if one applies. -/
def frmCheck (b : Bytes) : Option Status :=
  let n := b.length
  if n < 36 then some .bufferTooShort
  else if slice b 0 3 ≠ zeros 3 ∨ slice b (n - 3) n ≠ zeros 3 ∨ (n - 36) % 4 ≠ 0 then
    some .invalidFrame
  else none

/-- The CRC region on decode, b[4 .. 28+P') with P' = L - 36 (R153). -/
def frmRegion (b : Bytes) : Bytes :=
  slice b 4 (28 + (b.length - 36))

/-- The stored CRC, unbe(b[28+P' .. 32+P')) (R153). -/
def frmStoredCrc (b : Bytes) : Word :=
  BitVec.ofNat 32 (unbe (slice b (28 + (b.length - 36)) (32 + (b.length - 36))))

/-- The Frame that the bytes hold, once every check has passed (R155). The pad stays in the payload (R156). The header slice is always 24 bytes, so its decode cannot fail. -/
def frmExtract (b : Bytes) : Except Status Frame :=
  match hdrDecode (slice b 4 28) with
  | .error st => .error st
  | .ok h     =>
    .ok { sof := byteAt b 3, hdr := some h, payload := slice b 28 (28 + (b.length - 36)),
          eof := byteAt b (32 + (b.length - 36)) }

/-- frmDecode (R155). -/
def frmDecode (b : Bytes) : Except Status Frame :=
  match frmCheck b with
  | some st => .error st
  | none    => if crc32 (frmRegion b) ≠ frmStoredCrc b then .error .invalidCrc else frmExtract b

/-- FRM.ENC (R146). -/
def execFrmEnc (s : State) : Host.Outcome State Fault Refusal :=
  let r := s.readFrame
  match r.1.hdr with
  | none   => .next (r.2.complete .missingHeader)
  | some h =>
    let body := frmBody h r.1.payload
    let c := r.2.runCrc body
    let out := frmAssemble r.1.sof body c.1 r.1.eof
    .next (((c.2.memWrite .wire 0 out).setWireLen out.length).complete .ok)

/-- FRM.DEC (R157): nothing is populated before every check has passed (R153, R203). -/
def execFrmDec (s : State) : Host.Outcome State Fault Refusal :=
  let r := s.memRead .wire 0 s.wireLen.toNat
  match frmCheck r.1 with
  | some st => .next (r.2.complete st)
  | none    =>
    let c := r.2.runCrc (frmRegion r.1)
    if c.1 ≠ frmStoredCrc r.1 then .next (c.2.complete .invalidCrc)
    else
      match frmExtract r.1 with
      | .error st => .next (c.2.complete st)
      | .ok f     => .next ((c.2.writeFrame f).complete .ok)

end Sys2Proof.Machine
end

