-- ==== Sys2Proof/Machine/Dispatch.lean ====
section
/-! DEFINITION. One arm per command (spec/30_encoding.md R81): exec runs a command to its completion. -/

namespace Sys2Proof.Machine

def exec (i : Instr) (s : State) : Host.Outcome State Fault Refusal :=
  match i with
  | .hdrEnc => Sys2Proof.Machine.execHdrEnc s
  | .hdrDec => Sys2Proof.Machine.execHdrDec s
  | .frmEnc => Sys2Proof.Machine.execFrmEnc s
  | .frmDec => Sys2Proof.Machine.execFrmDec s
  | .fipEnc => Sys2Proof.Machine.execFipEnc s
  | .fipDec => Sys2Proof.Machine.execFipDec s

end Sys2Proof.Machine
end

