-- ==== Sys2Proof/Machine/HostPort.lean ====
section
/-! DEFINITION. The host port: the register map (spec/10_state.md R23), host reads and writes (spec/20_memory.md R61 to R67, spec/10_state.md R24 to R35) and what is outside the interface contract (R66; spec/70_reset_and_hazards.md R230, R240, R241). -/

namespace Sys2Proof.Machine

/-- The byte offset of a register (R23). -/
def Reg.offset : Reg → Addr
  | .cmd       => 0x00000#18
  | .status    => 0x00004#18
  | .wireLen   => 0x00008#18
  | .payLen    => 0x0000C#18
  | .frmSof    => 0x00010#18
  | .frmEof    => 0x00014#18
  | .frmHdrv   => 0x00018#18
  | .hdrRctl   => 0x00020#18
  | .hdrDid    => 0x00024#18
  | .hdrPrio   => 0x00028#18
  | .hdrSid    => 0x0002C#18
  | .hdrType   => 0x00030#18
  | .hdrFctl   => 0x00034#18
  | .hdrSeqid  => 0x00038#18
  | .hdrDfctl  => 0x0003C#18
  | .hdrSeqcnt => 0x00040#18
  | .hdrOxid   => 0x00044#18
  | .hdrRxid   => 0x00048#18
  | .hdrParam  => 0x0004C#18
  | .fipVer    => 0x00060#18
  | .fipProto  => 0x00064#18
  | .fipSub    => 0x00068#18
  | .fipDll    => 0x0006C#18
  | .fipFlags  => 0x00070#18

/-- The 24 registers in offset order (R23, C4). -/
def Reg.all : List Reg :=
  [.cmd, .status, .wireLen, .payLen, .frmSof, .frmEof, .frmHdrv, .hdrRctl, .hdrDid, .hdrPrio,
   .hdrSid, .hdrType] ++
  [.hdrFctl, .hdrSeqid, .hdrDfctl, .hdrSeqcnt, .hdrOxid, .hdrRxid, .hdrParam, .fipVer, .fipProto,
   .fipSub, .fipDll, .fipFlags]

/-- What an access reaches: a register, or the word of buffer bytes k to k+3 (R63). -/
inductive Target where
  | reg    (r : Reg)
  | window (buf : Buffer) (k : Nat)
  deriving DecidableEq, Repr

/-- The base of a buffer's window (R23, R63). -/
def Buffer.base : Buffer → Nat
  | .wire => 0x10000
  | .pay  => 0x20000

/-- The offset `a` lies in the window of a buffer (R64). -/
def Buffer.holds (buf : Buffer) (a : Addr) : Bool :=
  decide (buf.base ≤ a.toNat) && decide (a.toNat < buf.base + buf.capacity)

/-- The address map (R23, R64), for an `a` that is a multiple of 4: what is mapped there. -/
def target? (a : Addr) : Option Target :=
  match Reg.all.find? (fun r => r.offset == a) with
  | some r => some (.reg r)
  | none   =>
    if Buffer.wire.holds a then some (.window .wire (a.toNat - Buffer.wire.base))
    else if Buffer.pay.holds a then some (.window .pay (a.toNat - Buffer.pay.base))
    else none

/-- What an access of `bits` bits at `a` reaches, or why it is outside the contract (R64, R65, R230). -/
def State.checkAccess (s : State) (bits : Nat) (a : Addr) : Except Refusal Target :=
  if s.inReset then .error .accessDuringReset
  else if bits ≠ 32 then .error (.accessNotWord bits)
  else if a.toNat % 4 ≠ 0 then .error (.misaligned a)
  else
    match target? a with
    | none   => .error (.unmapped a)
    | some t => .ok t

/-- What a register reads as (R24, R25, R27 to R34): its field right-aligned, the bits above it 0. CMD reads 0. -/
def State.readReg (s : State) : Reg → Word
  | .cmd       => 0#32
  | .status    => s.statusWord
  | .wireLen   => s.wireLen.setWidth 32
  | .payLen    => s.payLen.setWidth 32
  | .frmSof    => s.frmSof.setWidth 32
  | .frmEof    => s.frmEof.setWidth 32
  | .frmHdrv   => (BitVec.ofBool s.frmHdrv).setWidth 32
  | .hdrRctl   => s.hdr.rctl.setWidth 32
  | .hdrDid    => s.hdr.did.setWidth 32
  | .hdrPrio   => s.hdr.prio.setWidth 32
  | .hdrSid    => s.hdr.sid.setWidth 32
  | .hdrType   => s.hdr.typ.setWidth 32
  | .hdrFctl   => s.hdr.fctl.setWidth 32
  | .hdrSeqid  => s.hdr.seqid.setWidth 32
  | .hdrDfctl  => s.hdr.dfctl.setWidth 32
  | .hdrSeqcnt => s.hdr.seqcnt.setWidth 32
  | .hdrOxid   => s.hdr.oxid.setWidth 32
  | .hdrRxid   => s.hdr.rxid.setWidth 32
  | .hdrParam  => s.hdr.param
  | .fipVer    => s.fip.ver.setWidth 32
  | .fipProto  => s.fip.proto.setWidth 32
  | .fipSub    => s.fip.sub.setWidth 32
  | .fipDll    => s.fip.dll.setWidth 32
  | .fipFlags  => s.fip.flagsWord

/-- A host write of `v` to a register while IDLE. CMD issues a command (R24); STATUS ignores it (R25); a length above capacity is refused (R27, R28); every other register keeps the bits of its field (R35). -/
def State.writeReg (s : State) (v : Word) : Reg → Host.Outcome State Fault Refusal
  | .cmd       => .next (s.accept v)
  | .status    => .next s
  | .wireLen   =>
    if v.toNat ≤ Config.wireMax then .next { s with wireLen := v.setWidth 17 }
    else .refused (.lengthAboveCapacity v)
  | .payLen    =>
    if v.toNat ≤ Config.payMax then .next { s with payLen := v.setWidth 17 }
    else .refused (.lengthAboveCapacity v)
  | .frmSof    => .next { s with frmSof := v.setWidth 8 }
  | .frmEof    => .next { s with frmEof := v.setWidth 8 }
  | .frmHdrv   => .next { s with frmHdrv := v.getLsbD 0 }
  | .hdrRctl   => .next { s with hdr := { s.hdr with rctl := v.setWidth 8 } }
  | .hdrDid    => .next { s with hdr := { s.hdr with did := v.setWidth 24 } }
  | .hdrPrio   => .next { s with hdr := { s.hdr with prio := v.setWidth 8 } }
  | .hdrSid    => .next { s with hdr := { s.hdr with sid := v.setWidth 24 } }
  | .hdrType   => .next { s with hdr := { s.hdr with typ := v.setWidth 8 } }
  | .hdrFctl   => .next { s with hdr := { s.hdr with fctl := v.setWidth 24 } }
  | .hdrSeqid  => .next { s with hdr := { s.hdr with seqid := v.setWidth 8 } }
  | .hdrDfctl  => .next { s with hdr := { s.hdr with dfctl := v.setWidth 8 } }
  | .hdrSeqcnt => .next { s with hdr := { s.hdr with seqcnt := v.setWidth 16 } }
  | .hdrOxid   => .next { s with hdr := { s.hdr with oxid := v.setWidth 16 } }
  | .hdrRxid   => .next { s with hdr := { s.hdr with rxid := v.setWidth 16 } }
  | .hdrParam  => .next { s with hdr := { s.hdr with param := v } }
  | .fipVer    => .next { s with fip := { s.fip with ver := v.setWidth 4 } }
  | .fipProto  => .next { s with fip := { s.fip with proto := v.setWidth 16 } }
  | .fipSub    => .next { s with fip := { s.fip with sub := v.setWidth 8 } }
  | .fipDll    => .next { s with fip := { s.fip with dll := v.setWidth 16 } }
  | .fipFlags  => .next { s with fip := s.fip.withFlags v }

/-- The window word of buffer bytes k to k+3, byte k in bits 31:24 (R63), with the free values that bytes nothing has written take (R41). -/
def State.readWindow (s : State) (buf : Buffer) (k : Nat) : Word × State :=
  let r := s.memRead buf k 4
  (BitVec.ofNat 32 (unbe r.1), r.2)

/-- Any 32-bit value: a host read while BUSY of anything but STATUS and CMD (R241; log 15). -/
def State.drawWord (s : State) : Word × State :=
  (Config.freeWord s.draws, s.setDraws (s.draws + 1))

/-- The value a host read of a mapped offset returns, and the free values it takes (R24, R25, R63, R241). -/
def State.readTarget (s : State) : Target → Word × State
  | .reg .cmd      => (s.readReg .cmd, s)
  | .reg .status   => (s.readReg .status, s)
  | .reg r         => if s.isBusy then s.drawWord else (s.readReg r, s)
  | .window buf k  => if s.isBusy then s.drawWord else s.readWindow buf k

/-- HostRead(a) (R61): the value goes to the host, and nothing else changes (R67) but the free values taken. -/
def State.hostRead (s : State) (bits : Nat) (a : Addr) : Host.Outcome State Fault Refusal :=
  match s.checkAccess bits a with
  | .error e => .refused e
  | .ok t    =>
    let r := s.readTarget t
    .next { r.2 with replies := { addr := a, data := r.1 } :: r.2.replies }

/-- HostWrite(a, v) (R61): refused while BUSY (R240); else a register write, or the four bytes of a window word (R63). -/
def State.hostWrite (s : State) (bits : Nat) (a : Addr) (v : Word) :
    Host.Outcome State Fault Refusal :=
  match s.checkAccess bits a with
  | .error e => .refused e
  | .ok t    =>
    if s.isBusy then .refused (.writeWhileBusy a)
    else
      match t with
      | .reg r        => s.writeReg v r
      | .window buf k => .next (s.memWrite buf k (be32 v))

/-- A host access (R61). -/
def State.hostAccess (s : State) : HostAccess → Host.Outcome State Fault Refusal
  | .read bits a    => s.hostRead bits a
  | .write bits a v => s.hostWrite bits a v

end Sys2Proof.Machine
end

