-- ==== Sys2Proof/Machine/Step.lean ====
section
/-! DEFINITION. One step: the next event of `inputs` (a host access, the reset input, or an engine cycle), an empty list being engine cycles (spec/10_state.md R24, R26, R39; spec/20_memory.md R70; spec/70_reset_and_hazards.md R250). FCCORE fetches no program (R21): the command a step runs is the word the engine has latched. -/

namespace Sys2Proof.Machine

/-- The completion of the latched word: the command it selects runs (R88); a word that selects none completes with BAD_OP (R83). -/
def runWord (w : Word) (s : State) : Host.Outcome State Fault Refusal :=
  match decodeCmd w with
  | .ok i    => exec i s
  | .error _ => .next s.completeBadOp

/-- One engine cycle (R250): IDLE and reset do nothing; BUSY counts down, and the last cycle runs the latched word and commits its outputs. -/
def engineCycle (s : State) : Host.Outcome State Fault Refusal :=
  if s.inReset then .next s
  else
    match s.engine with
    | .idle _           => .next s
    | .busy w 0         => runWord w s
    | .busy w 1         => runWord w s
    | .busy w (n + 2)   => .next { s with engine := .busy w (n + 1) }

/-- One event of the outside world, already taken from `inputs`. -/
def serve (e : HostEvent) (s : State) : Host.Outcome State Fault Refusal :=
  match e with
  | .access acc   => s.hostAccess acc
  | .resetInput b => .next (s.driveReset b)
  | .cycle        => engineCycle s

/-- One step. -/
def step (s : State) : Host.Outcome State Fault Refusal :=
  match s.inputs with
  | []        => engineCycle s
  | e :: rest => serve e { s with inputs := rest }

/-- `s` with the command word in the first `nbits` bits of `w` where step takes its next command from: latched, in the engine's last cycle before completion, the reset input released and the next event an engine cycle (log 9). This is the state in which a host write of the word to CMD has been accepted and all but one of its cycles have passed. -/
def State.withFetchWord (s : State) (nbits w : Nat) : State :=
  { s with
    engine := .busy (BitVec.ofNat 32 (w % 2 ^ nbits)) 1
    inReset := false
    inputs := match s.inputs with
      | []        => []
      | e :: rest => .cycle :: e :: rest }

end Sys2Proof.Machine
end

