-- ==== Sys2Proof/Machine/HostSide.lean ====
section
/-! DEFINITION. The host's side, for whoever writes a host program: the command pseudo-instructions (spec/30_encoding.md R89, R90) and the classification contract (spec/43_fip.md R185). None of it is part of FCCORE. -/

namespace Sys2Proof.Machine

/-- `wr REG, v` (R89). -/
def wr (r : Reg) (v : Word) : HostEvent :=
  .access (.write 32 r.offset v)

/-- `rd REG` (R89). -/
def rd (r : Reg) : HostEvent :=
  .access (.read 32 r.offset)

/-- `wr WIRE+k, v` and `wr PAY+k, v` (R89). -/
def wrWindow (buf : Buffer) (k : Nat) (v : Word) : HostEvent :=
  .access (.write 32 (BitVec.ofNat 18 (buf.base + k)) v)

/-- `rd WIRE+k` and `rd PAY+k` (R89). -/
def rdWindow (buf : Buffer) (k : Nat) : HostEvent :=
  .access (.read 32 (BitVec.ofNat 18 (buf.base + k)))

/-- `cmd X` (R90). -/
def cmd (i : Instr) : HostEvent :=
  wr .cmd (encode i)

/-- `wait` (R90), as the event list of a host whose loop reads STATUS once after each of `n` engine cycles. -/
def waitPolls (n : Nat) : List HostEvent :=
  (List.replicate n [HostEvent.cycle, rd .status]).flatten

/-- `run X` (R90) with `n` polls in its `wait`. -/
def runCmd (i : Instr) (n : Nat) : List HostEvent :=
  cmd i :: (waitPolls n ++ [rd .status])

/-- classifyOp of R185: the three points the source fixes, the rest an open parameter (log 18). -/
def classifyOp (proto : BitVec 16) (subcode : BitVec 8) : Operation :=
  if proto = 0x0001#16 ∧ subcode = 0x01#8 then .discoverySolicitation
  else if proto = 0xfff8#16 ∧ subcode = 0x01#8 then .vendorSpecific
  else if proto = 0x0000#16 ∧ subcode = 0x00#8 then .reserved
  else Config.classifyRest proto subcode

end Sys2Proof.Machine
end

