-- ==== Sys2Proof/Safety.lean ====
section
/-! DEFINITION. What counts as a sound state and as a step within the interface contract (spec/20_memory.md R66, R68; spec/10_state.md R27, R28). -/

namespace Sys2Proof.Machine

/-- A buffer's contents are in canonical form and within its capacity (R36, R37). -/
def Memory.Within (m : Memory) (cap : Nat) : Prop :=
  m.wf ∧ ∀ c ∈ m, c.1 < cap

/-- The invariant of the machine: both lengths within capacity (R27, R28), both buffers canonical and within capacity (R36, R37), and the engine IDLE with DONE = 0 while the reset input is asserted (R230, R232). -/
structure State.Inv (s : State) : Prop where
  wireLen_le : s.wireLen.toNat ≤ Config.wireMax
  payLen_le  : s.payLen.toNat ≤ Config.payMax
  wire_ok    : s.wire.Within Config.wireMax
  pay_ok     : s.pay.Within Config.payMax
  reset_idle : s.inReset = true → s.engine = .idle none

/-- An offset is mapped (R64): one of the 24 registers, or a multiple of 4 within a window. -/
def Mapped (a : Addr) : Prop :=
  (∃ r : Reg, r.offset = a) ∨
  (a.toNat % 4 = 0 ∧
    ((0x10000 ≤ a.toNat ∧ a.toNat < 0x10000 + Config.wireMax) ∨
     (0x20000 ≤ a.toNat ∧ a.toNat < 0x20000 + Config.payMax)))

/-- A host access is within the interface contract in state `s` (R64, R65, R66, R230, R240): not in reset, 32 bits, mapped; a write only while IDLE, and of a length register only within capacity. -/
def State.InContract (s : State) : HostAccess → Prop
  | .read bits a    => s.inReset = false ∧ bits = 32 ∧ Mapped a
  | .write bits a v =>
    s.inReset = false ∧ bits = 32 ∧ Mapped a ∧ s.isBusy = false ∧
    (a = Reg.wireLen.offset → v.toNat ≤ Config.wireMax) ∧
    (a = Reg.payLen.offset → v.toNat ≤ Config.payMax)

/-- `k` steps from `s`, ending at the first refusal: the run of the host's core, at the machine's own types. -/
def runSteps : Nat → State → Host.Outcome State Fault Refusal
  | 0, s => .next s
  | k + 1, s =>
    match step s with
    | .next t    => runSteps k t
    | .fault r   => .fault r
    | .refused r => .refused r

/-- A run of `k` steps from `s` that contains no refusal (R66). -/
def SafeRun (k : Nat) (s : State) : Prop :=
  ∃ t, runSteps k s = .next t

/-! ### The terms the statements use, written from the spec's tables and not from the meanings -/

/-- The 24 wire bytes of the header registers, byte by byte (R121; array elements as in R32). -/
def headerLayout (r : HdrRegs) : Bytes :=
  [r.rctl,
   r.did.extractLsb' 16 8, r.did.extractLsb' 8 8, r.did.extractLsb' 0 8,
   r.prio,
   r.sid.extractLsb' 16 8, r.sid.extractLsb' 8 8, r.sid.extractLsb' 0 8,
   r.typ,
   r.fctl.extractLsb' 16 8, r.fctl.extractLsb' 8 8, r.fctl.extractLsb' 0 8] ++
  [r.seqid, r.dfctl,
   r.seqcnt.extractLsb' 8 8, r.seqcnt.extractLsb' 0 8,
   r.oxid.extractLsb' 8 8, r.oxid.extractLsb' 0 8,
   r.rxid.extractLsb' 8 8, r.rxid.extractLsb' 0 8,
   r.param.extractLsb' 24 8, r.param.extractLsb' 16 8, r.param.extractLsb' 8 8,
   r.param.extractLsb' 0 8]

/-- The header registers that 24 wire bytes from offset `i` on give (R121, R32). -/
def headerRegsAt (b : Bytes) (i : Nat) : HdrRegs :=
  { rctl   := byteAt b i
    did    := byteAt b (i + 1) ++ byteAt b (i + 2) ++ byteAt b (i + 3)
    prio   := byteAt b (i + 4)
    sid    := byteAt b (i + 5) ++ byteAt b (i + 6) ++ byteAt b (i + 7)
    typ    := byteAt b (i + 8)
    fctl   := byteAt b (i + 9) ++ byteAt b (i + 10) ++ byteAt b (i + 11)
    seqid  := byteAt b (i + 12)
    dfctl  := byteAt b (i + 13)
    seqcnt := byteAt b (i + 14) ++ byteAt b (i + 15)
    oxid   := byteAt b (i + 16) ++ byteAt b (i + 17)
    rxid   := byteAt b (i + 18) ++ byteAt b (i + 19)
    param  := byteAt b (i + 20) ++ byteAt b (i + 21) ++ byteAt b (i + 22) ++ byteAt b (i + 23) }

/-- The number of pad bytes for a payload of n bytes: n mod 4 = 0, 1, 2, 3 gives 0, 3, 2, 1 (R142's table). -/
def padBytes (n : Nat) : Nat :=
  (4 - n % 4) % 4

/-- The wire bytes of a Frame by R143's table, from its 24 header bytes and its padded payload, with the CRC given. -/
def frameLayout (sof : Byte) (header padded : Bytes) (crc : Word) (eof : Byte) : Bytes :=
  [0x00#8, 0x00#8, 0x00#8, sof] ++ header ++ padded ++
  [crc.extractLsb' 24 8, crc.extractLsb' 16 8, crc.extractLsb' 8 8, crc.extractLsb' 0 8,
   eof, 0x00#8, 0x00#8, 0x00#8]

/-- The big-endian 32-bit value at offset `i` of a sequence (R62). -/
def wordAt (b : Bytes) (i : Nat) : Word :=
  byteAt b i ++ byteAt b (i + 1) ++ byteAt b (i + 2) ++ byteAt b (i + 3)

/-- A reserved byte of a Frame of `b`'s length is not zero, or its payload region is not whole words (R152). -/
def FrameFramingBad (b : Bytes) : Prop :=
  byteAt b 0 ≠ 0#8 ∨ byteAt b 1 ≠ 0#8 ∨ byteAt b 2 ≠ 0#8 ∨
  byteAt b (b.length - 3) ≠ 0#8 ∨ byteAt b (b.length - 2) ≠ 0#8 ∨ byteAt b (b.length - 1) ≠ 0#8 ∨
  (b.length - 36) % 4 ≠ 0

/-- The wire bytes of a FipFrame by R171's table, for version nibble `ver`. -/
def fipLayout (r : FipRegs) : Bytes :=
  [r.ver ++ 0#4, 0x00#8,
   r.proto.extractLsb' 8 8, r.proto.extractLsb' 0 8, 0x00#8, r.sub,
   r.dll.extractLsb' 8 8, r.dll.extractLsb' 0 8,
   BitVec.ofBool r.fpma ++ BitVec.ofBool r.spma ++ 0#6,
   0#5 ++ BitVec.ofBool r.afl ++ BitVec.ofBool r.sol ++ BitVec.ofBool r.fcf]

/-- The reserved bits of each of the ten bytes of a FipFrame (R171): 4, 8, 8, 6 and 5 of them, 31 in all. -/
def fipReservedMask : List Byte :=
  [0x0F#8, 0xFF#8, 0x00#8, 0x00#8, 0xFF#8, 0x00#8, 0x00#8, 0x00#8, 0x3F#8, 0xF8#8]

/-- The bits of a register that are its fields (R23, R34); a write stores these and ignores the rest (R35). -/
def Reg.mask : Reg → Word
  | .cmd       => 0x00000000#32
  | .status    => 0x00000000#32
  | .wireLen   => 0x0001FFFF#32
  | .payLen    => 0x0001FFFF#32
  | .frmSof    => 0x000000FF#32
  | .frmEof    => 0x000000FF#32
  | .frmHdrv   => 0x00000001#32
  | .hdrRctl   => 0x000000FF#32
  | .hdrDid    => 0x00FFFFFF#32
  | .hdrPrio   => 0x000000FF#32
  | .hdrSid    => 0x00FFFFFF#32
  | .hdrType   => 0x000000FF#32
  | .hdrFctl   => 0x00FFFFFF#32
  | .hdrSeqid  => 0x000000FF#32
  | .hdrDfctl  => 0x000000FF#32
  | .hdrSeqcnt => 0x0000FFFF#32
  | .hdrOxid   => 0x0000FFFF#32
  | .hdrRxid   => 0x0000FFFF#32
  | .hdrParam  => 0xFFFFFFFF#32
  | .fipVer    => 0x0000000F#32
  | .fipProto  => 0x0000FFFF#32
  | .fipSub    => 0x000000FF#32
  | .fipDll    => 0x0000FFFF#32
  | .fipFlags  => 0x0000C007#32

/-- The sequence with bit `j` of byte `k` flipped. -/
def flipBit (b : Bytes) (k j : Nat) : Bytes :=
  b.set k (byteAt b k ^^^ (1#8 <<< j))

/-- WIRE_LEN is the length of `b` and WIRE[0..WIRE_LEN) holds `b`, every byte of it written. -/
def State.WireHolds (s : State) (b : Bytes) : Prop :=
  s.wireLen.toNat = b.length ∧ ∀ i, i < b.length → s.wire.byteAt? i = b[i]?

/-- `bytes` is what a read of `n` bytes from offset 0 of a buffer may give: each byte that has been written since reset is that byte (R41 leaves the others open). -/
def ReadFrom (m : Memory) (n : Nat) (bytes : Bytes) : Prop :=
  bytes.length = n ∧ ∀ k v, k < n → m.byteAt? k = some v → bytes[k]? = some v

/-- The machine with another value in CRC_ACC. -/
def State.withCrcAcc (s : State) (x : Word) : State :=
  { s with crcAcc := x }

/-- The host's next event is a 32-bit write of `v` to offset `a`, with `rest` to follow. -/
def State.NextWrite (s : State) (a : Addr) (v : Word) (rest : List HostEvent) : Prop :=
  s.inputs = .access (.write 32 a v) :: rest

/-- The host's next event is a 32-bit read of offset `a`, with `rest` to follow. -/
def State.NextRead (s : State) (a : Addr) (rest : List HostEvent) : Prop :=
  s.inputs = .access (.read 32 a) :: rest

end Sys2Proof.Machine
end

