-- ==== Sys2Proof/Certificates/Slice0/Obligations.lean ====
section
/-! DEFINITION. The statements for the provers: what the rules of spec/ say that the machine does, for every command, every kind of state and the host interface. -/

open Sys2Proof Sys2Proof.Machine

/-- In State.reset, and in the state a step answers when the reset input, asserted, is released, every one of the 24 registers reads 0x00000000 (STATUS too: BUSY, DONE and CODE 0), the engine is IDLE with no completed command, and a read of any buffer byte is the next free value and takes it. The released state's CRC_ACC is a free value too. (CRC_ACC of State.reset is the model's choice, log 5, and nothing is said of it.) (States R41.) -/
def Obligations.ResetLeavesRegistersZero : Prop :=
  let clean : State → Prop := fun t =>
    (∀ r : Reg, t.readReg r = 0#32) ∧ t.statusWord = 0#32 ∧ t.engine = .idle none ∧
    ∀ buf k, t.memRead buf k 1 = ([Config.freeByte t.draws], t.setDraws (t.draws + 1))
  clean State.reset ∧
  ∀ (s : State) (rest : List HostEvent), s.inReset = true → s.inputs = .resetInput false :: rest →
    ∃ t, step s = .next t ∧ clean t ∧ t.inReset = false ∧ t.inputs = rest ∧
      ∃ d, t.crcAcc = Config.freeWord d

/-- Whatever the engine is doing, the step that asserts the reset input answers a state in which every register reads 0, the engine is IDLE with no completed command, no byte of WIRE or PAY holds a defined value, and the machine is in reset: nothing of an aborted command is there. That this state is entered at once when the input is asserted, and is held with the machine in reset, is the model's choice (log 8): R230 fixes the state when the input is deasserted, and R232 that a reset aborts. (Rests on 70_reset_and_hazards.md R232, 70_reset_and_hazards.md R230, 10_state.md R42.) -/
def Obligations.ResetAbortsTheCommand : Prop :=
  ∀ (s : State) (rest : List HostEvent), s.inputs = .resetInput true :: rest →
    ∃ t, step s = .next t ∧ t.inReset = true ∧ t.inputs = rest ∧ t.engine = .idle none ∧
      (∀ r : Reg, t.readReg r = 0#32) ∧
      (∀ k, t.wire.byteAt? k = none) ∧ (∀ k, t.pay.byteAt? k = none)

/-- For every 32-bit word w and every command i, decodeCmd w answers i if and only if w is the encoding of i; and the six encodings are 0x00000001 to 0x00000006, in the table's order. So decoding what encode gives answers the command, no two words decode to one command, and every other word selects none. (Rests on 30_encoding.md R81, 30_encoding.md R82, 30_encoding.md R88.) -/
def Obligations.DecodeMatchesTheCommandTable : Prop :=
  (∀ (w : Word) (i : Instr), decodeCmd w = .ok i ↔ w = encode i) ∧
  encode .hdrEnc = 0x00000001#32 ∧ encode .hdrDec = 0x00000002#32 ∧
  encode .frmEnc = 0x00000003#32 ∧ encode .frmDec = 0x00000004#32 ∧
  encode .fipEnc = 0x00000005#32 ∧ encode .fipDec = 0x00000006#32

/-- Command words written out bit by bit from the table decode to their commands; 0, 7, 9 and 0x80000003 decode to none, each for its own reason; the same through the opcode table's bit numbering. (Rests on 30_encoding.md R81, 30_encoding.md R82, 30_encoding.md R83.) -/
def Obligations.CommandWordsDecode : Prop :=
  decodeCmd 0b00000000000000000000000000000001#32 = .ok .hdrEnc ∧
  decodeCmd 0b00000000000000000000000000000010#32 = .ok .hdrDec ∧
  decodeCmd 0b00000000000000000000000000000011#32 = .ok .frmEnc ∧
  decodeCmd 0b00000000000000000000000000000100#32 = .ok .frmDec ∧
  decodeCmd 0b00000000000000000000000000000101#32 = .ok .fipEnc ∧
  decodeCmd 0b00000000000000000000000000000110#32 = .ok .fipDec ∧
  decodeCmd 0x00000000#32 = .error .reservedOp0 ∧ decodeCmd 0x00000007#32 = .error .reservedOp7 ∧
  decodeCmd 0x00000009#32 = .error .reservedBits ∧ decodeCmd 0x80000003#32 = .error .reservedBits ∧
  decodeTableWord 32 4 = some .frmDec ∧ decodeTableWord 32 7 = none

/-- While IDLE and out of reset, the step that serves a host write of any value v to CMD answers the state with BUSY = 1, DONE = 0 and CODE = 0 and v latched, for a number of cycles from 1 to K * (n + 1) with n the number of input bytes of v; no other part of the machine changes. R250 gives n for the six commands only: n = 0 for a word that selects no command is the model's (log 16), and so is holding the count in the engine (log 2). (Rests on 10_state.md R24, 10_state.md R26, 10_state.md R39, 70_reset_and_hazards.md R250.) -/
def Obligations.AcceptanceSetsBusyAndLatchesTheWord : Prop :=
  ∀ (s : State) (v : Word) (rest : List HostEvent),
    s.inReset = false → s.isBusy = false → s.NextWrite 0x00000#18 v rest →
    ∃ n, 1 ≤ n ∧ n ≤ Config.latSlope * (s.inputBytes v + 1) ∧
      step s = .next { s with inputs := rest, engine := .busy v n } ∧
      (∀ t, step s = .next t → t.statusWord = 0x00000001#32)

/-- Out of reset, BUSY with at most one cycle left, with a latched word that decodes to i, a step that serves an engine cycle is exec of i at that state (the cycle taken from the inputs, if one stood there). The state withFetchWord builds is one such state (log 9). That the whole command runs in the last cycle counted is the model's (log 11), and so is the count (log 2), whose value 0 no run reaches. (Rests on 10_state.md R39, 30_encoding.md R88, 70_reset_and_hazards.md R250.) -/
def Obligations.StepRunsTheLatchedCommand : Prop :=
  (∀ (s : State) (w : Word) (n : Nat) (i : Instr),
    s.inReset = false → s.engine = .busy w n → n ≤ 1 → decodeCmd w = .ok i →
    (s.inputs = [] → step s = exec i s) ∧
    (∀ rest, s.inputs = .cycle :: rest → step s = exec i { s with inputs := rest })) ∧
  (∀ (s : State) (w : Word) (i : Instr), decodeCmd w = .ok i →
    step (s.withFetchWord 32 w.toNat) =
      exec i { s with engine := .busy w 1, inReset := false })

/-- Out of reset and IDLE, when the host's last event is a write of w to CMD, 1 + LAT(w, n) steps answer exactly what the completion of w answers on the state at the write: the command has read every earlier write's value, and its outputs are all there when it is complete. One step a cycle and none for the write is the model's (logs 2 and 12), the run on the state at the write too (log 11), and n = 0 for a word that selects no command (log 16). Runs with host reads in them are CommandRunsUnderTheWaitLoop. (Rests on 20_memory.md R71, 70_reset_and_hazards.md R250, 10_state.md R26, 10_state.md R21.) -/
def Obligations.CommandRunsToItsCompletion : Prop :=
  ∀ (s : State) (w : Word),
    s.inReset = false → s.isBusy = false → s.NextWrite 0x00000#18 w [] →
    runSteps (1 + Config.lat w (s.inputBytes w)) s =
      runWord w { s with inputs := [], engine := .busy w 1 }

/-- From every state that is BUSY with n cycles left and out of reset, within as many steps as the host has events left plus n + 1: whatever the host does next, the run has either ended in a refusal or reached a state in which BUSY = 0; and if no event of the reset input stands among the host's events, the run has either ended in a refusal or reached a state in which the engine is IDLE with a status, having been BUSY with the same command word at every step before. The bound is the model's: one step for each event and each cycle (logs 2 and 12), and engine cycles once the finite list of events is served (log 3). (Rests on 70_reset_and_hazards.md R251, 70_reset_and_hazards.md R250.) -/
def Obligations.EveryAcceptedCommandCompletes : Prop :=
  ∀ (s : State) (w : Word) (n : Nat), s.inReset = false → s.engine = .busy w n →
    (∃ k, k ≤ s.inputs.length + n + 1 ∧
      ((∃ r, runSteps k s = .refused r) ∨
       ∃ t, runSteps k s = .next t ∧ t.isBusy = false)) ∧
    ((∀ b, .resetInput b ∉ s.inputs) →
      ∃ k, k ≤ s.inputs.length + n + 1 ∧
        ((∃ r, runSteps k s = .refused r) ∨
         ((∃ t st, runSteps k s = .next t ∧ t.engine = .idle (some st)) ∧
          ∀ j, j < k → ∃ u m, runSteps j s = .next u ∧ u.engine = .busy w m)))

/-- For every command i and every state, exec of i answers a next state with BUSY = 0, DONE = 1 and one status, and STATUS reads that status's number in bits 6:4: HDR.ENC gives OK only, HDR.DEC OK or LENGTH_MISMATCH, FRM.ENC OK or MISSING_HEADER, FRM.DEC OK, BUFFER_TOO_SHORT, INVALID_FRAME or INVALID_CRC, FIP.ENC OK or INVALID_VERSION, FIP.DEC OK, BUFFER_TOO_SHORT or INVALID_FRAME. (States R200.) -/
def Obligations.EveryCommandCompletesWithOneStatus : Prop :=
  let allowed : Instr → List (Status × Word) := fun i =>
    match i with
    | .hdrEnc => [(.ok, 0x02#32)]
    | .hdrDec => [(.ok, 0x02#32), (.lengthMismatch, 0x22#32)]
    | .frmEnc => [(.ok, 0x02#32), (.missingHeader, 0x52#32)]
    | .frmDec => [(.ok, 0x02#32), (.bufferTooShort, 0x12#32), (.invalidFrame, 0x32#32),
                  (.invalidCrc, 0x42#32)]
    | .fipEnc => [(.ok, 0x02#32), (.invalidVersion, 0x62#32)]
    | .fipDec => [(.ok, 0x02#32), (.bufferTooShort, 0x12#32), (.invalidFrame, 0x32#32)]
  (∀ (i : Instr) (s : State), ∃ t st word, exec i s = .next t ∧ t.engine = .idle (some st) ∧
    t.statusWord = word ∧ (st, word) ∈ allowed i) ∧
  (∀ (w : Word) (s : State), (∀ i, decodeCmd w ≠ .ok i) → ∃ t, runWord w s = .next t ∧
    t.engine = .idle (some .badOp) ∧ t.statusWord = 0x72#32)

/-- When exec of any command answers a state whose status is not OK, that state is the one before with a new status; only the model's count of free values taken and the unobservable CRC_ACC may differ. The same for a word that selects no command, where nothing else at all differs. (Rests on 60_exceptions.md R203, 60_exceptions.md R204, 30_encoding.md R83.) -/
def Obligations.FailedCommandChangesOnlyStatus : Prop :=
  (∀ (i : Instr) (s t : State) (st : Status), exec i s = .next t → t.engine = .idle (some st) →
    st ≠ .ok → t = { s with engine := .idle (some st), draws := t.draws, crcAcc := t.crcAcc }) ∧
  (∀ (w : Word) (s : State), (∀ i, decodeCmd w ≠ .ok i) →
    runWord w s = .next { s with engine := .idle (some .badOp) })

/-- For every word whose bits 31:3 are not all zero, or whose OP is 0 or 7, the completion step of that word answers the state before with BUSY = 0, DONE = 1 and CODE = 7; STATUS then reads 0x72. (Rests on 30_encoding.md R82, 30_encoding.md R83.) -/
def Obligations.ReservedWordsCompleteWithBadOp : Prop :=
  ∀ (s : State) (w : Word) (n : Nat),
    w.extractLsb' 3 29 ≠ 0#29 ∨ w.extractLsb' 0 3 = 0#3 ∨ w.extractLsb' 0 3 = 7#3 →
    s.inReset = false → s.engine = .busy w n → n ≤ 1 → s.inputs = [] →
    ∃ t, step s = .next t ∧ t = { s with engine := .idle (some .badOp) } ∧ t.statusWord = 0x72#32

/-- In every state, the value a read of STATUS returns has bits 3:2 and 31:7 zero, not both bit 0 and bit 1 set, and bits 6:4 zero when bit 1 is zero. (Rests on 10_state.md R25, 10_state.md R26.) -/
def Obligations.StatusFieldsAreExclusive : Prop :=
  ∀ s : State,
    s.statusWord &&& 0xFFFFFF8C#32 = 0#32 ∧
    (s.statusWord.getLsbD 0 && s.statusWord.getLsbD 1) = false ∧
    (s.statusWord.getLsbD 1 = false → s.statusWord.extractLsb' 4 3 = 0#3)

/-- When a step answers a state with another STATUS, either the host wrote CMD while IDLE and the engine is now BUSY with the value written, or the engine was BUSY in its last cycle and is now IDLE with a status, or the reset input was driven. (Rests on 10_state.md R26, 10_state.md R42.) -/
def Obligations.OnlyThreeEventsChangeStatus : Prop :=
  ∀ s t : State, step s = .next t → t.statusWord ≠ s.statusWord →
    (∃ v rest n, s.NextWrite 0x00000#18 v rest ∧ s.isBusy = false ∧ t.engine = .busy v n) ∨
    (∃ w n st, s.engine = .busy w n ∧ n ≤ 1 ∧ t.engine = .idle (some st)) ∨
    (∃ b rest, s.inputs = .resetInput b :: rest)

/-- When a step answers a state in which a register other than STATUS reads another value, either the host's event was a write to that register's own offset, or the engine was BUSY and the command has completed OK, or the reset input was driven. (Rests on 10_state.md R42, 60_exceptions.md R203.) -/
def Obligations.RegistersChangeOnlyByTheirWriters : Prop :=
  ∀ (s t : State) (r : Reg), step s = .next t → r ≠ .status → t.readReg r ≠ s.readReg r →
    (∃ v rest, s.NextWrite r.offset v rest) ∨
    (s.isBusy = true ∧ t.engine = .idle (some .ok)) ∨
    (∃ b rest, s.inputs = .resetInput b :: rest)

/-- When a step answers a state in which some byte of WIRE or PAY is another one, either the host's event was a write of the window word that holds it, or the engine was BUSY and the command has completed OK (an encode for WIRE, FRM.DEC for PAY), or the reset input was driven. (Rests on 10_state.md R36, 10_state.md R37, 20_memory.md R63, 20_memory.md R67.) -/
def Obligations.BufferBytesChangeOnlyByTheirWriters : Prop :=
  ∀ (s t : State) (k : Nat), step s = .next t →
    (t.wire.byteAt? k ≠ s.wire.byteAt? k →
      (∃ a v rest, s.NextWrite a v rest ∧ a.toNat ≤ 0x10000 + k ∧ 0x10000 + k < a.toNat + 4) ∨
      (t.engine = .idle (some .ok) ∧ ∃ w n i, s.engine = .busy w n ∧ decodeCmd w = .ok i ∧
        i ∈ [Instr.hdrEnc, .frmEnc, .fipEnc]) ∨
      (∃ b rest, s.inputs = .resetInput b :: rest)) ∧
    (t.pay.byteAt? k ≠ s.pay.byteAt? k →
      (∃ a v rest, s.NextWrite a v rest ∧ a.toNat ≤ 0x20000 + k ∧ 0x20000 + k < a.toNat + 4) ∨
      (t.engine = .idle (some .ok) ∧ ∃ w n, s.engine = .busy w n ∧ decodeCmd w = .ok .frmDec) ∨
      (∃ b rest, s.inputs = .resetInput b :: rest))

/-- For every state, exec of HDR.ENC (the word 0x00000001) answers a next state with STATUS 0x02 and WIRE_LEN 24, in which WIRE[0..24) holds the header registers in the layout of the header table, big-endian, every other WIRE byte is as before, and every other part of the machine (PAY, PAY_LEN, FRM_*, HDR_*, FIP_*, CRC_ACC) is as before. All fields zero give 24 zero bytes, all at their maximum 24 bytes of 0xFF. (States R124.) -/
def Obligations.HdrEncWritesTheHeaderBytes : Prop :=
  decodeCmd 0x00000001#32 = .ok .hdrEnc ∧
  ∀ s : State, ∃ t, exec .hdrEnc s = .next t ∧ t.statusWord = 0x02#32 ∧ t.wireLen = 24#17 ∧
    (headerLayout s.hdr).length = 24 ∧
    (∀ k, k < 24 → t.wire.byteAt? k = (headerLayout s.hdr)[k]?) ∧
    (∀ k, 24 ≤ k → t.wire.byteAt? k = s.wire.byteAt? k) ∧
    t = { s with engine := .idle (some .ok), wireLen := t.wireLen, wire := t.wire }

/-- For every state, exec of HDR.DEC (the word 0x00000002) answers a next state. With WIRE_LEN 24 its STATUS is 0x02, the header registers are those that the 24 bytes read from WIRE give by the header table, and nothing else changes (WIRE, WIRE_LEN, PAY, PAY_LEN, FRM_SOF, FRM_EOF, FRM_HDRV, FIP_*). With any other WIRE_LEN its STATUS is 0x22 and nothing else changes. A byte read is the one written, where one has been written since reset. (States R126.) -/
def Obligations.HdrDecReadsTheHeaderBytes : Prop :=
  decodeCmd 0x00000002#32 = .ok .hdrDec ∧
  ∀ s : State,
    (s.wireLen.toNat = 24 → ∃ b t, ReadFrom s.wire 24 b ∧ exec .hdrDec s = .next t ∧
      t.statusWord = 0x02#32 ∧ t.hdr = headerRegsAt b 0 ∧
      t = { s with engine := .idle (some .ok), hdr := t.hdr, draws := t.draws }) ∧
    (s.wireLen.toNat ≠ 24 → ∃ t, exec .hdrDec s = .next t ∧ t.statusWord = 0x22#32 ∧
      t = { s with engine := .idle (some .lengthMismatch) })

/-- With FRM_HDRV = 1, exec of FRM.ENC (the word 0x00000003) answers a next state with STATUS 0x02 and, PAY_LEN being within the PAY buffer, WIRE_LEN 36 + n + pad, in which WIRE holds, from offset 0, the frame of the frame table: three zero bytes, SOF, the header bytes, the payload read, the pad zeros, the CRC of header and padded payload, EOF and three zero bytes; every other WIRE byte, PAY, PAY_LEN, FRM_*, HDR_* and FIP_* are as before. With FRM_HDRV = 0 (whatever PAY_LEN) STATUS is 0x52 and nothing else changes. PAY_LEN within the buffer is the invariant of InvariantKeptByEveryStep. (The free values taken, and CRC_ACC, which is unobservable, may differ.) (States R146.) -/
def Obligations.FrmEncWritesTheFrameBytes : Prop :=
  decodeCmd 0x00000003#32 = .ok .frmEnc ∧
  ∀ s : State,
    (s.frmHdrv = true →
      ∃ p t, ReadFrom s.pay s.payLen.toNat p ∧ exec .frmEnc s = .next t ∧
        let padded := p ++ List.replicate (padBytes p.length) 0x00#8
        let out := frameLayout s.frmSof (headerLayout s.hdr) padded
          (crc32 (headerLayout s.hdr ++ padded)) s.frmEof
        t.statusWord = 0x02#32 ∧ out.length = 36 + p.length + padBytes p.length ∧
        (s.payLen.toNat ≤ Config.payMax → t.wireLen.toNat = out.length) ∧
        (∀ k, k < out.length → t.wire.byteAt? k = out[k]?) ∧
        (∀ k, out.length ≤ k → t.wire.byteAt? k = s.wire.byteAt? k) ∧
        t = { s with engine := .idle (some .ok), wireLen := t.wireLen, wire := t.wire,
                     draws := t.draws, crcAcc := t.crcAcc }) ∧
    (s.frmHdrv = false → ∃ t, exec .frmEnc s = .next t ∧ t.statusWord = 0x52#32 ∧
      t = { s with engine := .idle (some .missingHeader), draws := t.draws })

/-- For every state, with b the WIRE_LEN bytes that a read of WIRE from offset 0 answers in it (each byte written since reset is that byte, the others free values): if b has at least 36 bytes, its six reserved bytes are zero, its payload region is whole words and the CRC of its header and payload is the stored one, exec of FRM.DEC (the word 0x00000004) answers a next state with STATUS 0x02, FRM_SOF and FRM_EOF from b, FRM_HDRV 1, the header registers of the 24 header bytes, PAY_LEN = WIRE_LEN - 36 (a multiple of 4), PAY[0..PAY_LEN) the payload with its pad and every other PAY byte as before; WIRE, WIRE_LEN and FIP_* are as before. (The free values taken, and CRC_ACC, which is unobservable, may differ.) (Rests on 42_frame.md R157, 42_frame.md R155, 42_frame.md R156.) -/
def Obligations.FrmDecCommitsAValidFrame : Prop :=
  decodeCmd 0x00000004#32 = .ok .frmDec ∧
  ∀ s : State,
    let b := (s.memRead .wire 0 s.wireLen.toNat).1
    ReadFrom s.wire s.wireLen.toNat b ∧
    (36 ≤ b.length → ¬ FrameFramingBad b →
      crc32 (slice b 4 (b.length - 8)) = wordAt b (b.length - 8) →
      ∃ t, exec .frmDec s = .next t ∧
      t.statusWord = 0x02#32 ∧ t.frmSof = byteAt b 3 ∧ t.frmEof = byteAt b (b.length - 4) ∧
      t.frmHdrv = true ∧ t.hdr = headerRegsAt b 4 ∧
      t.payLen.toNat = b.length - 36 ∧ t.payLen.toNat % 4 = 0 ∧
      (∀ k, k < b.length - 36 → t.pay.byteAt? k = b[28 + k]?) ∧
      (∀ k, b.length - 36 ≤ k → t.pay.byteAt? k = s.pay.byteAt? k) ∧
      t = { s with engine := .idle (some .ok), frmSof := t.frmSof, frmEof := t.frmEof,
                   frmHdrv := t.frmHdrv, hdr := t.hdr, payLen := t.payLen, pay := t.pay,
                   draws := t.draws, crcAcc := t.crcAcc })

/-- For every state, with b the WIRE_LEN bytes that a read of WIRE from offset 0 answers in it (each byte written since reset is that byte, the others free values), exec of FRM.DEC answers a next state: under 36 bytes STATUS becomes 0x12 whatever the bytes; from 36 on, a non-zero reserved byte or a payload region that is not whole words gives 0x32 whatever the CRC; otherwise a CRC that is not the stored one gives 0x42. In each case nothing else changes but the free values taken and the unobservable CRC_ACC. (States R154.) -/
def Obligations.FrmDecFailuresInTheirOrder : Prop :=
  ∀ s : State,
    let b := (s.memRead .wire 0 s.wireLen.toNat).1
    ReadFrom s.wire s.wireLen.toNat b ∧ ∃ t, exec .frmDec s = .next t ∧
    let failed := fun (st : Status) (word : Word) => t.statusWord = word ∧
      t = { s with engine := .idle (some st), draws := t.draws, crcAcc := t.crcAcc }
    (b.length < 36 → failed .bufferTooShort 0x12#32) ∧
    (36 ≤ b.length → FrameFramingBad b → failed .invalidFrame 0x32#32) ∧
    (36 ≤ b.length → ¬ FrameFramingBad b →
      crc32 (slice b 4 (b.length - 8)) ≠ wordAt b (b.length - 8) → failed .invalidCrc 0x42#32)

/-- With FIP_VER = 1, exec of FIP.ENC (the word 0x00000005) answers a next state with STATUS 0x02 and WIRE_LEN 10, in which WIRE[0..10) holds the FIP registers in the layout of the FIP table, every reserved bit zero; every other WIRE byte and every other part of the machine is as before. With any other FIP_VER STATUS is 0x62 and nothing else changes. (States R174.) -/
def Obligations.FipEncWritesTheTenBytes : Prop :=
  decodeCmd 0x00000005#32 = .ok .fipEnc ∧
  ∀ s : State,
    (s.fip.ver = 1#4 → ∃ t, exec .fipEnc s = .next t ∧ t.statusWord = 0x02#32 ∧
      t.wireLen = 10#17 ∧ (fipLayout s.fip).length = 10 ∧
      (∀ k, k < 10 → t.wire.byteAt? k = (fipLayout s.fip)[k]?) ∧
      (∀ k, 10 ≤ k → t.wire.byteAt? k = s.wire.byteAt? k) ∧
      t = { s with engine := .idle (some .ok), wireLen := t.wireLen, wire := t.wire }) ∧
    (s.fip.ver ≠ 1#4 → ∃ t, exec .fipEnc s = .next t ∧ t.statusWord = 0x62#32 ∧
      t = { s with engine := .idle (some .invalidVersion) })

/-- For every state, exec of FIP.DEC (the word 0x00000006) answers a next state. WIRE_LEN under 10 gives STATUS 0x12. From 10 on, with b the first ten WIRE bytes: a version nibble that is not 1 or a reserved bit that is set gives 0x32; otherwise STATUS is 0x02 and the FIP registers are the fields of b by the FIP table (FIP_VER 1). Nothing else changes, and on a failure no FIP register changes. (States R180.) -/
def Obligations.FipDecReadsTheTenBytes : Prop :=
  decodeCmd 0x00000006#32 = .ok .fipDec ∧
  ∀ s : State,
    (s.wireLen.toNat < 10 → ∃ t, exec .fipDec s = .next t ∧ t.statusWord = 0x12#32 ∧
      t = { s with engine := .idle (some .bufferTooShort) }) ∧
    (10 ≤ s.wireLen.toNat → ∃ b t, ReadFrom s.wire 10 b ∧ exec .fipDec s = .next t ∧
      let bad := byteAt b 0 >>> 4 ≠ 1#8 ∨
        ∃ k, k < 10 ∧ byteAt b k &&& byteAt fipReservedMask k ≠ 0#8
      (bad → t.statusWord = 0x32#32 ∧
        t = { s with engine := .idle (some .invalidFrame), draws := t.draws }) ∧
      (¬ bad → t.statusWord = 0x02#32 ∧ t.fip.ver = 1#4 ∧
        t.fip.proto = byteAt b 2 ++ byteAt b 3 ∧ t.fip.sub = byteAt b 5 ∧
        t.fip.dll = byteAt b 6 ++ byteAt b 7 ∧
        t.fip.fpma = (byteAt b 8).getLsbD 7 ∧ t.fip.spma = (byteAt b 8).getLsbD 6 ∧
        t.fip.afl = (byteAt b 9).getLsbD 2 ∧ t.fip.sol = (byteAt b 9).getLsbD 1 ∧
        t.fip.fcf = (byteAt b 9).getLsbD 0 ∧
        t = { s with engine := .idle (some .ok), fip := t.fip, draws := t.draws }))

/-- Decoding the encoding of any Header answers that Header; encoding the decoding of any 24 bytes answers those bytes; and HDR.ENC followed by HDR.DEC leaves every header register as it was. (States R127.) -/
def Obligations.HeaderRoundTrip : Prop :=
  (∀ h : Header, hdrDecode (hdrEncode h) = .ok h) ∧
  (∀ b : Bytes, b.length = 24 → ∃ h, hdrDecode b = .ok h ∧ hdrEncode h = b) ∧
  (∀ s : State, ∃ t u, exec .hdrEnc s = .next t ∧ exec .hdrDec t = .next u ∧
    u.engine = .idle (some .ok) ∧ u.hdr = s.hdr)

/-- For every Frame with a Header, whatever its SOF, EOF and payload, frmEncode answers bytes, and frmDecode of those bytes answers the Frame with the same SOF, Header and EOF and with the payload followed by the zero bytes that fill its last word. (States R147.) -/
def Obligations.FrameRoundTrip : Prop :=
  ∀ (f : Frame) (h : Header), f.hdr = some h →
    ∃ b, frmEncode f = .ok b ∧
      frmDecode b = .ok { f with
        payload := f.payload ++ List.replicate (padBytes f.payload.length) 0x00#8 }

/-- For every Frame with a Header, decoding its encoding answers a Frame g; g's payload is f's exactly when f's payload length is a multiple of 4; SOF, EOF and Header are f's always; and encoding g answers the same bytes as encoding f. (Rests on 42_frame.md R158, 42_frame.md R156.) -/
def Obligations.PayloadRoundTripsIffAligned : Prop :=
  ∀ (f : Frame) (h : Header), f.hdr = some h →
    ∃ b g, frmEncode f = .ok b ∧ frmDecode b = .ok g ∧
      (g.payload = f.payload ↔ f.payload.length % 4 = 0) ∧
      g.sof = f.sof ∧ g.eof = f.eof ∧ g.hdr = f.hdr ∧
      frmEncode g = .ok b

/-- Decoding the encoding of any FipFrame of version 1 answers that FipFrame; encoding the decoding of any ten bytes that decode answers those bytes; and a FipFrame of another version encodes to no bytes but to INVALID_VERSION. (States R181.) -/
def Obligations.FipRoundTrip : Prop :=
  (∀ f : FipFrame, f.version = 1#4 → ∃ b, fipEncode f = .ok b ∧ fipDecode b = .ok f) ∧
  (∀ (b : Bytes) (f : FipFrame), b.length = 10 → fipDecode b = .ok f → fipEncode f = .ok b) ∧
  (∀ f : FipFrame, f.version ≠ 1#4 → fipEncode f = .error .invalidVersion)

/-- Take any Frame with a Header, its encoding b, and b with any one bit of any byte from offset 4 up to the end of the stored CRC flipped. In every state whose WIRE holds those bytes, exec of FRM.DEC completes with INVALID_CRC, STATUS 0x42. (States R159.) -/
def Obligations.SingleBitFlipGivesInvalidCrc : Prop :=
  ∀ (f : Frame) (h : Header) (b : Bytes) (k j : Nat) (s : State),
    f.hdr = some h → frmEncode f = .ok b → 4 ≤ k → k < b.length - 4 → j < 8 →
    s.WireHolds (flipBit b k j) →
    ∃ t, exec .frmDec s = .next t ∧ t.engine = .idle (some .invalidCrc) ∧ t.statusWord = 0x42#32

/-- Take any Frame with a Header, its encoding b, and b with one of its six reserved bytes (offsets 0 to 2 and the last three) set to any non-zero value. In every state whose WIRE holds those bytes, exec of FRM.DEC completes with INVALID_FRAME, STATUS 0x32. (Rests on 42_frame.md R160, 42_frame.md R152.) -/
def Obligations.NonZeroReservedFrameByteIsRejected : Prop :=
  ∀ (f : Frame) (h : Header) (b : Bytes) (k : Nat) (v : Byte) (s : State),
    f.hdr = some h → frmEncode f = .ok b → k < 3 ∨ (b.length - 3 ≤ k ∧ k < b.length) → v ≠ 0#8 →
    s.WireHolds (b.set k v) →
    ∃ t, exec .frmDec s = .next t ∧ t.engine = .idle (some .invalidFrame) ∧ t.statusWord = 0x32#32

/-- For every Frame with a Header and every two byte values, its encoding with byte 3 set to the first and the first byte of the EOF region set to the second decodes to the same Header and padded payload with those values as SOF and EOF. (Rests on 42_frame.md R150, 42_frame.md R144.) -/
def Obligations.SofAndEofAreOpaque : Prop :=
  ∀ (f : Frame) (h : Header) (b : Bytes) (x y : Byte), f.hdr = some h → frmEncode f = .ok b →
    ∃ g, frmDecode b = .ok g ∧
      frmDecode ((b.set 3 x).set (b.length - 4) y) = .ok { g with sof := x, eof := y }

/-- Take any ten bytes that fipDecode accepts and any reserved bit of the FIP table, bit j of byte k. In every state whose WIRE holds the bytes with that bit flipped (so set), exec of FIP.DEC completes with INVALID_FRAME, STATUS 0x32. The table has 31 reserved bits. (Rests on 43_fip.md R182, 43_fip.md R177, 43_fip.md R171.) -/
def Obligations.AnyReservedFipBitIsRejected : Prop :=
  (((List.range 10).flatMap fun k => (List.range 8).filter fun j =>
    (byteAt fipReservedMask k).getLsbD j).length = 31) ∧
  ∀ (b : Bytes) (f : FipFrame) (k j : Nat) (s : State),
    b.length = 10 → fipDecode b = .ok f → k < 10 → j < 8 →
    (byteAt fipReservedMask k).getLsbD j = true → s.WireHolds (flipBit b k j) →
    (byteAt (flipBit b k j) k).getLsbD j = true ∧
    ∃ t, exec .fipDec s = .next t ∧ t.engine = .idle (some .invalidFrame) ∧ t.statusWord = 0x32#32

/-- The check values of the CRC table (empty, 00, ff, 123456789, 24 zero bytes, 24 bytes of ff, 28 zero bytes) and the CRC of the 28-byte region of the source's frame example. (Rests on 40_crc32.md R106, 40_crc32.md R107.) -/
def Obligations.CrcCheckValues : Prop :=
  crc32 [] = 0x00000000#32 ∧ crc32 [0x00#8] = 0xD202EF8D#32 ∧ crc32 [0xFF#8] = 0xFF000000#32 ∧
  crc32 [0x31#8, 0x32#8, 0x33#8, 0x34#8, 0x35#8, 0x36#8, 0x37#8, 0x38#8, 0x39#8] = 0xCBF43926#32 ∧
  crc32 (List.replicate 24 0x00#8) = 0xA3C1CA20#32 ∧
  crc32 (List.replicate 24 0xFF#8) = 0xDCDD16C2#32 ∧
  crc32 (List.replicate 28 0x00#8) = 0x807077E9#32 ∧
  crc32 ([0x01#8, 0x03#8, 0x03#8, 0x03#8, 0x05#8, 0x06#8, 0x06#8, 0x06#8, 0x02#8, 0x01#8, 0x02#8,
          0x03#8, 0x05#8, 0x06#8] ++
         [0x01#8, 0x00#8, 0x03#8, 0xe8#8, 0x03#8, 0xe9#8, 0x00#8, 0x00#8, 0x4e#8, 0x20#8, 0x01#8,
          0x02#8, 0x03#8, 0x00#8]) = 0x094CBCE8#32

/-- For every accumulator value, the bit reversal of one right-shifting step is one left-shifting step by the normal-form polynomial x^32 + x^26 + x^23 + x^22 + x^16 + x^12 + x^11 + x^10 + x^8 + x^7 + x^5 + x^4 + x^2 + x + 1 on the reversed value; the coefficients below x^32 are the set bits of 0x04C11DB7, whose reversal is 0xEDB88320. (States R105.) -/
def Obligations.CrcIsTheReflectedPolynomialDivision : Prop :=
  let normal : Word := 0x04C11DB7#32
  (∀ i, i < 32 → (normal.getLsbD i = true ↔ i ∈ [26, 23, 22, 16, 12, 11, 10, 8, 7, 5, 4, 2, 1, 0])) ∧
  normal.reverse = 0xEDB88320#32 ∧
  ∀ acc : Word, (crcShift acc).reverse =
    if acc.reverse.getLsbD 31 then (acc.reverse <<< 1) ^^^ normal else acc.reverse <<< 1

/-- For every byte sequence, every byte position k of it and every bit j of that byte, crc32 of the sequence with that bit flipped differs from crc32 of the sequence. (Here for every length, by the algebra of the generator, not only for frames.) (Rests on 40_crc32.md R108.) -/
def Obligations.CrcDetectsAnySingleBitError : Prop :=
  ∀ (d : Bytes) (k j : Nat), k < d.length → j < 8 → crc32 (flipBit d k j) ≠ crc32 d

/-- Two states that differ in CRC_ACC only take the same step: both answer states that differ in CRC_ACC at most, or both are refused for the same reason. (Rests on 10_state.md R38, 40_crc32.md R101.) -/
def Obligations.CrcAccNeverReachesAResult : Prop :=
  ∀ (s : State) (x : Word),
    (∃ t t', step s = .next t ∧ step (s.withCrcAcc x) = .next t' ∧
      t = t'.withCrcAcc t.crcAcc) ∨
    (∃ r, step s = .refused r ∧ step (s.withCrcAcc x) = .refused r)

/-- Two states that differ only in PAY bytes at offsets PAY_LEN and up give the same FRM.ENC: both answer states that differ in those PAY bytes only. (Rests on 42_frame.md R146, 10_state.md R37.) -/
def Obligations.FrmEncIgnoresBytesPastPayLen : Prop :=
  ∀ (s : State) (m : Memory), (∀ k, k < s.payLen.toNat → m.byteAt? k = s.pay.byteAt? k) →
    ∃ t, exec .frmEnc s = .next t ∧ exec .frmEnc { s with pay := m } = .next { t with pay := m }

/-- Two states that differ only in WIRE bytes at offsets WIRE_LEN and up give the same HDR.DEC, FRM.DEC and FIP.DEC; and two states with WIRE_LEN of at least 10 that differ only in WIRE_LEN and in WIRE bytes from offset 10 on give the same FIP.DEC. (Rests on 41_header.md R126, 42_frame.md R157, 43_fip.md R179, 10_state.md R36.) -/
def Obligations.DecodesIgnoreBytesPastWireLen : Prop :=
  (∀ (i : Instr) (s : State) (m : Memory), i ∈ [Instr.hdrDec, .frmDec, .fipDec] →
    (∀ k, k < s.wireLen.toNat → m.byteAt? k = s.wire.byteAt? k) →
    ∃ t, exec i s = .next t ∧ exec i { s with wire := m } = .next { t with wire := m }) ∧
  (∀ (s : State) (m : Memory) (n : BitVec 17), 10 ≤ s.wireLen.toNat → 10 ≤ n.toNat →
    (∀ k, k < 10 → m.byteAt? k = s.wire.byteAt? k) →
    ∃ t, exec .fipDec s = .next t ∧
      exec .fipDec { s with wire := m, wireLen := n } = .next { t with wire := m, wireLen := n })

/-- The address map at each register offset of the table, and at the gap 0x0001C, which is not mapped. (Rests on 10_state.md R23, 20_memory.md R64.) -/
def Obligations.RegisterMap : Prop :=
  [0x00000#18, 0x00004#18, 0x00008#18, 0x0000C#18, 0x00010#18, 0x00014#18, 0x00018#18].map target? =
    [Reg.cmd, .status, .wireLen, .payLen, .frmSof, .frmEof, .frmHdrv].map (fun r => some (.reg r)) ∧
  [0x00020#18, 0x00024#18, 0x00028#18, 0x0002C#18, 0x00030#18, 0x00034#18, 0x00038#18, 0x0003C#18,
    0x00040#18, 0x00044#18, 0x00048#18, 0x0004C#18].map target? =
    [Reg.hdrRctl, .hdrDid, .hdrPrio, .hdrSid, .hdrType, .hdrFctl, .hdrSeqid, .hdrDfctl, .hdrSeqcnt,
      .hdrOxid, .hdrRxid, .hdrParam].map (fun r => some (.reg r)) ∧
  [0x00060#18, 0x00064#18, 0x00068#18, 0x0006C#18, 0x00070#18].map target? =
    [Reg.fipVer, .fipProto, .fipSub, .fipDll, .fipFlags].map (fun r => some (.reg r)) ∧
  target? 0x0001C#18 = none

/-- While IDLE and out of reset, a host write of any v to any R/W register but WIRE_LEN and PAY_LEN answers a next state in which that register reads v with the bits outside its field cleared (FIP_FLAGS keeps bits 15, 14, 2, 1 and 0), every other register reads as before, and WIRE, PAY and CRC_ACC are as before. (Rests on 10_state.md R35, 10_state.md R34, 10_state.md R33, 10_state.md R29.) -/
def Obligations.FieldWriteKeepsTheFieldBits : Prop :=
  ∀ (s : State) (r : Reg) (v : Word) (rest : List HostEvent),
    r ∉ [Reg.cmd, .status, .wireLen, .payLen] → s.inReset = false → s.isBusy = false →
    s.NextWrite r.offset v rest →
    ∃ t, step s = .next t ∧ t.readReg r = v &&& r.mask ∧
      (∀ r' : Reg, r' ≠ r → t.readReg r' = s.readReg r') ∧
      t = { s with frmSof := t.frmSof, frmEof := t.frmEof, frmHdrv := t.frmHdrv, hdr := t.hdr,
                   fip := t.fip, inputs := rest }

/-- While IDLE and out of reset, a host write of v to WIRE_LEN with v at most WIRE_MAX, or to PAY_LEN with v at most PAY_MAX, answers the state before with that register reading v; a greater v is refused. (Rests on 10_state.md R27, 10_state.md R28, 20_memory.md R66.) -/
def Obligations.LengthWritesWithinCapacity : Prop :=
  ∀ (s : State) (v : Word) (rest : List HostEvent), s.inReset = false → s.isBusy = false →
    (s.NextWrite 0x00008#18 v rest →
      (v.toNat ≤ Config.wireMax → ∃ t, step s = .next t ∧ t.readReg .wireLen = v ∧
        t = { s with wireLen := t.wireLen, inputs := rest }) ∧
      (Config.wireMax < v.toNat → ∃ e, step s = .refused e)) ∧
    (s.NextWrite 0x0000C#18 v rest →
      (v.toNat ≤ Config.payMax → ∃ t, step s = .next t ∧ t.readReg .payLen = v ∧
        t = { s with payLen := t.payLen, inputs := rest }) ∧
      (Config.payMax < v.toNat → ∃ e, step s = .refused e))

/-- While IDLE and out of reset a host write of any value to STATUS answers the state before, the event served; out of reset, BUSY or not, a host read of CMD answers the state before with the reply 0x00000000. (Rests on 10_state.md R24, 10_state.md R25, 20_memory.md R67.) -/
def Obligations.StatusWriteIgnoredAndCmdReadsZero : Prop :=
  (∀ (s : State) (v : Word) (rest : List HostEvent), s.inReset = false → s.isBusy = false →
    s.NextWrite 0x00004#18 v rest → step s = .next { s with inputs := rest }) ∧
  (∀ (s : State) (rest : List HostEvent), s.inReset = false → s.NextRead 0x00000#18 rest →
    step s = .next { s with
      inputs := rest, replies := { addr := 0x00000#18, data := 0x00000000#32 } :: s.replies })

/-- While IDLE and out of reset, a host read of any register answers the state before with the register's value as the reply. And whatever is read, a host read that answers a next state changes nothing but the replies and the free values taken. (Rests on 20_memory.md R61, 20_memory.md R67, 10_state.md R23.) -/
def Obligations.HostReadReturnsTheRegister : Prop :=
  (∀ (s : State) (r : Reg) (rest : List HostEvent), s.inReset = false → s.isBusy = false →
    s.NextRead r.offset rest →
    step s = .next { s with
      inputs := rest, replies := { addr := r.offset, data := s.readReg r } :: s.replies }) ∧
  (∀ (s t : State) (bits : Nat) (a : Addr) (rest : List HostEvent),
    s.inputs = .access (.read bits a) :: rest → step s = .next t →
    ∃ v, t = { s with
      inputs := rest, draws := t.draws, replies := { addr := a, data := v } :: s.replies })

/-- While IDLE and out of reset, for each buffer and each offset k, a multiple of 4 below its capacity: a host write of v to the window word at k answers a state in which buffer bytes k to k+3 are v's bytes 31:24, 23:16, 15:8 and 7:0, and every other byte of that buffer, the other buffer and everything else is as before; and a host read of that word in a state whose four bytes there have been written replies with the four bytes in those lanes and takes no free value. (WindowReadsDrawUnwrittenBytes states the read of a word some of whose bytes have not been written.) (States R63.) -/
def Obligations.WindowWordLanes : Prop :=
  ∀ (buf : Buffer) (base cap : Nat),
    (buf = .wire ∧ base = 0x10000 ∧ cap = Config.wireMax) ∨
    (buf = .pay ∧ base = 0x20000 ∧ cap = Config.payMax) →
  ∀ (s : State) (k : Nat) (v : Word) (rest : List HostEvent),
    k % 4 = 0 → k < cap → s.inReset = false → s.isBusy = false →
    (s.NextWrite (BitVec.ofNat 18 (base + k)) v rest →
      ∃ t, step s = .next t ∧
        (t.buf buf).byteAt? k = some (v.extractLsb' 24 8) ∧
        (t.buf buf).byteAt? (k + 1) = some (v.extractLsb' 16 8) ∧
        (t.buf buf).byteAt? (k + 2) = some (v.extractLsb' 8 8) ∧
        (t.buf buf).byteAt? (k + 3) = some (v.extractLsb' 0 8) ∧
        (∀ j, j < k ∨ k + 4 ≤ j → (t.buf buf).byteAt? j = (s.buf buf).byteAt? j) ∧
        t = ({ s with inputs := rest }).setBuf buf (t.buf buf)) ∧
    (∀ b0 b1 b2 b3 : Byte, s.NextRead (BitVec.ofNat 18 (base + k)) rest →
      (s.buf buf).byteAt? k = some b0 → (s.buf buf).byteAt? (k + 1) = some b1 →
      (s.buf buf).byteAt? (k + 2) = some b2 → (s.buf buf).byteAt? (k + 3) = some b3 →
      step s = .next { s with
        inputs := rest,
        replies := { addr := BitVec.ofNat 18 (base + k), data := b0 ++ b1 ++ b2 ++ b3 } ::
          s.replies })

/-- While BUSY and out of reset, a host read of STATUS replies 0x00000001 and one of CMD replies 0; a host read of any other mapped offset replies with the next free word, which the state's registers and buffers do not determine. None of them changes the engine or anything else but the replies and the free values taken. (States R241.) -/
def Obligations.BusyReadsSayNothing : Prop :=
  ∀ (s : State) (a : Addr) (rest : List HostEvent), s.inReset = false → s.isBusy = true →
    s.NextRead a rest →
    (a = 0x00004#18 → step s = .next { s with
      inputs := rest, replies := { addr := a, data := 0x00000001#32 } :: s.replies }) ∧
    (a = 0x00000#18 → step s = .next { s with
      inputs := rest, replies := { addr := a, data := 0x00000000#32 } :: s.replies }) ∧
    (a ≠ 0x00004#18 → a ≠ 0x00000#18 → Mapped a → step s = .next { s with
      inputs := rest, draws := s.draws + 1,
      replies := { addr := a, data := Config.freeWord s.draws } :: s.replies })

/-- While BUSY, a host write of any width and value to any offset, CMD, STATUS, registers and window words among them, is refused: the model gives that step no meaning. (States R240.) -/
def Obligations.BusyWritesAreRefused : Prop :=
  ∀ (s : State) (bits : Nat) (a : Addr) (v : Word) (rest : List HostEvent), s.isBusy = true →
    s.inputs = .access (.write bits a v) :: rest → ∃ e, step s = .refused e

/-- In every state: a step that serves a host access answers a next state if and only if the access is within the contract (out of reset, 32 bits wide, a mapped offset; for a write, while IDLE, and for a length register within its buffer's capacity), and is refused otherwise; and a step that serves no host access (an engine cycle, the reset input) always answers a next state. (Rests on 20_memory.md R64, 20_memory.md R65, 20_memory.md R66, 70_reset_and_hazards.md R230, 70_reset_and_hazards.md R240.) -/
def Obligations.RefusedExactlyOutsideTheContract : Prop :=
  (∀ (s : State) (acc : HostAccess) (rest : List HostEvent), s.inputs = .access acc :: rest →
    ((∃ t, step s = .next t) ↔ s.InContract acc) ∧
    ((∃ e, step s = .refused e) ↔ ¬ s.InContract acc)) ∧
  (∀ s : State, (∀ acc rest, s.inputs ≠ .access acc :: rest) → ∃ t, step s = .next t)

/-- State.reset has both lengths within capacity and both buffers canonical and within capacity, and is out of reset: it is the state after the reset input is deasserted, which is the model's choice for its reset level (log 8). (Rests on 10_state.md R41, 20_memory.md R68, 70_reset_and_hazards.md R230.) -/
def Obligations.InvariantAtReset : Prop :=
  State.reset.Inv ∧ State.reset.inReset = false

/-- For every state that meets the invariant (WIRE_LEN at most WIRE_MAX, PAY_LEN at most PAY_MAX, each buffer's list strictly rising with every offset below its capacity, and the engine IDLE with DONE = 0 while the reset input is asserted), a step that answers a next state answers one that meets it: so every engine access stays within its buffer. The clause on the reset input is the model's choice of a level that resets at once and holds (log 8), beside R230 and R232. (Rests on 20_memory.md R68, 10_state.md R27, 10_state.md R28, 10_state.md R36, 10_state.md R37, 70_reset_and_hazards.md R230, 70_reset_and_hazards.md R232.) -/
def Obligations.InvariantKeptByEveryStep : Prop :=
  ∀ s t : State, s.Inv → step s = .next t → t.Inv

/-- classifyOp answers DiscoverySolicitation at (0x0001, 0x01), VendorSpecific at (0xfff8, 0x01) and Reserved at (0x0000, 0x00); nothing is said of the rest, which is a free parameter. The function is the host's, no part of FCCORE. (Rests on 43_fip.md R185.) -/
def Obligations.ClassifyOpFixedPoints : Prop :=
  classifyOp 0x0001#16 0x01#8 = .discoverySolicitation ∧
  classifyOp 0xfff8#16 0x01#8 = .vendorSpecific ∧
  classifyOp 0x0000#16 0x00#8 = .reserved

/-- Out of reset and IDLE, let the host's next event be a write of w to CMD, followed by events es that are cycles and 32-bit reads of mapped offsets (the wait loop's reads of STATUS, or others), and by rest. With fewer cycles in es than LAT(w, n), the run of the write and es answers a state that is BUSY and is the state at the write but for the engine, the replies and the free values taken. With LAT(w, n) cycles in es, the last event of es being one, it answers what the completion of w answers on the state at the write, but for the replies and the free values that the reads took; reads of STATUS take none. In both, each reply to a read of STATUS is 0x00000001. One step a cycle and a host read without a cycle are the model's (logs 2, 3 and 12), the run in the last cycle too (log 11), the free values of reads while BUSY are log 15, and n = 0 for a word that selects no command is log 16. (Rests on 30_encoding.md R90, 20_memory.md R71, 70_reset_and_hazards.md R241, 70_reset_and_hazards.md R250, 10_state.md R26.) -/
def Obligations.CommandRunsUnderTheWaitLoop : Prop :=
  ∀ (s : State) (w : Word) (es rest : List HostEvent),
    s.inReset = false → s.isBusy = false → s.NextWrite 0x00000#18 w (es ++ rest) →
    (∀ e ∈ es, e = .cycle ∨ ∃ a, e = .access (.read 32 a) ∧ Mapped a) →
    let lat := Config.lat w (s.inputBytes w)
    let cycles := es.count .cycle
    ∃ (d : Nat) (rs : List HostReply),
      rs.length + cycles = es.length ∧
      (∀ r ∈ rs, r.addr = 0x00004#18 → r.data = 0x00000001#32) ∧
      ((∀ e ∈ es, e = .cycle ∨ e = .access (.read 32 0x00004#18)) → d = s.draws) ∧
      (cycles < lat → ∃ t, runSteps (1 + es.length) s = .next t ∧ t.isBusy = true ∧
        t = { s with inputs := rest, engine := .busy w (lat - cycles), draws := d,
                     replies := rs ++ s.replies }) ∧
      (cycles = lat → es.getLast? = some .cycle →
        runSteps (1 + es.length) s =
          runWord w { s with inputs := rest, engine := .busy w 1, draws := d,
                             replies := rs ++ s.replies })

/-- While IDLE and out of reset, for each buffer and each offset k, a multiple of 4 below its capacity, whatever is written there: a host read of the window word at k answers the state before with a reply whose lane for byte k+i (bits 31:24, 23:16, 15:8, 7:0 for i = 0 to 3) is that byte, if it has been written since reset, and a free value otherwise; as many free values are taken as there are unwritten bytes, and nothing else changes. That the free values are taken in rising offset order, and counted, is the model's (log 4), and so is the list of replies (log 13). (Rests on 20_memory.md R63, 10_state.md R41, 20_memory.md R61, 20_memory.md R67.) -/
def Obligations.WindowReadsDrawUnwrittenBytes : Prop :=
  ∀ (buf : Buffer) (base cap : Nat),
    (buf = .wire ∧ base = 0x10000 ∧ cap = Config.wireMax) ∨
    (buf = .pay ∧ base = 0x20000 ∧ cap = Config.payMax) →
  ∀ (s : State) (k : Nat) (rest : List HostEvent),
    k % 4 = 0 → k < cap → s.inReset = false → s.isBusy = false →
    s.NextRead (BitVec.ofNat 18 (base + k)) rest →
    let unwritten := fun i : Nat =>
      ((List.range i).filter fun j => ((s.buf buf).byteAt? (k + j)).isNone).length
    ∃ v : Word,
      step s = .next { s with
        inputs := rest, draws := s.draws + unwritten 4,
        replies := { addr := BitVec.ofNat 18 (base + k), data := v } :: s.replies } ∧
      ∀ i, i < 4 → v.extractLsb' (24 - 8 * i) 8 =
        ((s.buf buf).byteAt? (k + i)).getD (Config.freeByte (s.draws + unwritten i))
end

