-- ==== Sys2Proof/Laws/State.lean ====
section
/-! SUPPORT. One lemma for each field of State under each named update: what the update writes, and that it leaves every other field alone. No later proof unfolds a record update. -/

namespace Sys2Proof.Machine

/-! ### setDraws -/

@[simp] theorem State.setDraws_engine (s : State) (d : Nat) :
    (s.setDraws d).engine = s.engine := rfl
@[simp] theorem State.setDraws_wireLen (s : State) (d : Nat) :
    (s.setDraws d).wireLen = s.wireLen := rfl
@[simp] theorem State.setDraws_payLen (s : State) (d : Nat) :
    (s.setDraws d).payLen = s.payLen := rfl
@[simp] theorem State.setDraws_frmSof (s : State) (d : Nat) :
    (s.setDraws d).frmSof = s.frmSof := rfl
@[simp] theorem State.setDraws_frmEof (s : State) (d : Nat) :
    (s.setDraws d).frmEof = s.frmEof := rfl
@[simp] theorem State.setDraws_frmHdrv (s : State) (d : Nat) :
    (s.setDraws d).frmHdrv = s.frmHdrv := rfl
@[simp] theorem State.setDraws_hdr (s : State) (d : Nat) : (s.setDraws d).hdr = s.hdr := rfl
@[simp] theorem State.setDraws_fip (s : State) (d : Nat) : (s.setDraws d).fip = s.fip := rfl
@[simp] theorem State.setDraws_wire (s : State) (d : Nat) : (s.setDraws d).wire = s.wire := rfl
@[simp] theorem State.setDraws_pay (s : State) (d : Nat) : (s.setDraws d).pay = s.pay := rfl
@[simp] theorem State.setDraws_crcAcc (s : State) (d : Nat) :
    (s.setDraws d).crcAcc = s.crcAcc := rfl
@[simp] theorem State.setDraws_inReset (s : State) (d : Nat) :
    (s.setDraws d).inReset = s.inReset := rfl
@[simp] theorem State.setDraws_draws (s : State) (d : Nat) : (s.setDraws d).draws = d := rfl
@[simp] theorem State.setDraws_inputs (s : State) (d : Nat) :
    (s.setDraws d).inputs = s.inputs := rfl
@[simp] theorem State.setDraws_replies (s : State) (d : Nat) :
    (s.setDraws d).replies = s.replies := rfl

/-! ### setWireLen -/

@[simp] theorem State.setWireLen_engine (s : State) (n : Nat) :
    (s.setWireLen n).engine = s.engine := rfl
@[simp] theorem State.setWireLen_wireLen (s : State) (n : Nat) :
    (s.setWireLen n).wireLen = BitVec.ofNat 17 n := rfl
@[simp] theorem State.setWireLen_payLen (s : State) (n : Nat) :
    (s.setWireLen n).payLen = s.payLen := rfl
@[simp] theorem State.setWireLen_frmSof (s : State) (n : Nat) :
    (s.setWireLen n).frmSof = s.frmSof := rfl
@[simp] theorem State.setWireLen_frmEof (s : State) (n : Nat) :
    (s.setWireLen n).frmEof = s.frmEof := rfl
@[simp] theorem State.setWireLen_frmHdrv (s : State) (n : Nat) :
    (s.setWireLen n).frmHdrv = s.frmHdrv := rfl
@[simp] theorem State.setWireLen_hdr (s : State) (n : Nat) : (s.setWireLen n).hdr = s.hdr := rfl
@[simp] theorem State.setWireLen_fip (s : State) (n : Nat) : (s.setWireLen n).fip = s.fip := rfl
@[simp] theorem State.setWireLen_wire (s : State) (n : Nat) : (s.setWireLen n).wire = s.wire := rfl
@[simp] theorem State.setWireLen_pay (s : State) (n : Nat) : (s.setWireLen n).pay = s.pay := rfl
@[simp] theorem State.setWireLen_crcAcc (s : State) (n : Nat) :
    (s.setWireLen n).crcAcc = s.crcAcc := rfl
@[simp] theorem State.setWireLen_inReset (s : State) (n : Nat) :
    (s.setWireLen n).inReset = s.inReset := rfl
@[simp] theorem State.setWireLen_draws (s : State) (n : Nat) :
    (s.setWireLen n).draws = s.draws := rfl
@[simp] theorem State.setWireLen_inputs (s : State) (n : Nat) :
    (s.setWireLen n).inputs = s.inputs := rfl
@[simp] theorem State.setWireLen_replies (s : State) (n : Nat) :
    (s.setWireLen n).replies = s.replies := rfl

/-! ### setPayLen -/

@[simp] theorem State.setPayLen_engine (s : State) (n : Nat) :
    (s.setPayLen n).engine = s.engine := rfl
@[simp] theorem State.setPayLen_wireLen (s : State) (n : Nat) :
    (s.setPayLen n).wireLen = s.wireLen := rfl
@[simp] theorem State.setPayLen_payLen (s : State) (n : Nat) :
    (s.setPayLen n).payLen = BitVec.ofNat 17 n := rfl
@[simp] theorem State.setPayLen_frmSof (s : State) (n : Nat) :
    (s.setPayLen n).frmSof = s.frmSof := rfl
@[simp] theorem State.setPayLen_frmEof (s : State) (n : Nat) :
    (s.setPayLen n).frmEof = s.frmEof := rfl
@[simp] theorem State.setPayLen_frmHdrv (s : State) (n : Nat) :
    (s.setPayLen n).frmHdrv = s.frmHdrv := rfl
@[simp] theorem State.setPayLen_hdr (s : State) (n : Nat) : (s.setPayLen n).hdr = s.hdr := rfl
@[simp] theorem State.setPayLen_fip (s : State) (n : Nat) : (s.setPayLen n).fip = s.fip := rfl
@[simp] theorem State.setPayLen_wire (s : State) (n : Nat) : (s.setPayLen n).wire = s.wire := rfl
@[simp] theorem State.setPayLen_pay (s : State) (n : Nat) : (s.setPayLen n).pay = s.pay := rfl
@[simp] theorem State.setPayLen_crcAcc (s : State) (n : Nat) :
    (s.setPayLen n).crcAcc = s.crcAcc := rfl
@[simp] theorem State.setPayLen_inReset (s : State) (n : Nat) :
    (s.setPayLen n).inReset = s.inReset := rfl
@[simp] theorem State.setPayLen_draws (s : State) (n : Nat) : (s.setPayLen n).draws = s.draws := rfl
@[simp] theorem State.setPayLen_inputs (s : State) (n : Nat) :
    (s.setPayLen n).inputs = s.inputs := rfl
@[simp] theorem State.setPayLen_replies (s : State) (n : Nat) :
    (s.setPayLen n).replies = s.replies := rfl

/-! ### accept -/

@[simp] theorem State.accept_engine (s : State) (v : Word) :
    (s.accept v).engine = .busy v (Config.lat v (s.inputBytes v)) := rfl
@[simp] theorem State.accept_wireLen (s : State) (v : Word) :
    (s.accept v).wireLen = s.wireLen := rfl
@[simp] theorem State.accept_payLen (s : State) (v : Word) : (s.accept v).payLen = s.payLen := rfl
@[simp] theorem State.accept_frmSof (s : State) (v : Word) : (s.accept v).frmSof = s.frmSof := rfl
@[simp] theorem State.accept_frmEof (s : State) (v : Word) : (s.accept v).frmEof = s.frmEof := rfl
@[simp] theorem State.accept_frmHdrv (s : State) (v : Word) :
    (s.accept v).frmHdrv = s.frmHdrv := rfl
@[simp] theorem State.accept_hdr (s : State) (v : Word) : (s.accept v).hdr = s.hdr := rfl
@[simp] theorem State.accept_fip (s : State) (v : Word) : (s.accept v).fip = s.fip := rfl
@[simp] theorem State.accept_wire (s : State) (v : Word) : (s.accept v).wire = s.wire := rfl
@[simp] theorem State.accept_pay (s : State) (v : Word) : (s.accept v).pay = s.pay := rfl
@[simp] theorem State.accept_crcAcc (s : State) (v : Word) : (s.accept v).crcAcc = s.crcAcc := rfl
@[simp] theorem State.accept_inReset (s : State) (v : Word) :
    (s.accept v).inReset = s.inReset := rfl
@[simp] theorem State.accept_draws (s : State) (v : Word) : (s.accept v).draws = s.draws := rfl
@[simp] theorem State.accept_inputs (s : State) (v : Word) : (s.accept v).inputs = s.inputs := rfl
@[simp] theorem State.accept_replies (s : State) (v : Word) :
    (s.accept v).replies = s.replies := rfl

/-! ### complete -/

@[simp] theorem State.complete_engine (s : State) (st : Status) :
    (s.complete st).engine = .idle (some st) := rfl
@[simp] theorem State.complete_wireLen (s : State) (st : Status) :
    (s.complete st).wireLen = s.wireLen := rfl
@[simp] theorem State.complete_payLen (s : State) (st : Status) :
    (s.complete st).payLen = s.payLen := rfl
@[simp] theorem State.complete_frmSof (s : State) (st : Status) :
    (s.complete st).frmSof = s.frmSof := rfl
@[simp] theorem State.complete_frmEof (s : State) (st : Status) :
    (s.complete st).frmEof = s.frmEof := rfl
@[simp] theorem State.complete_frmHdrv (s : State) (st : Status) :
    (s.complete st).frmHdrv = s.frmHdrv := rfl
@[simp] theorem State.complete_hdr (s : State) (st : Status) : (s.complete st).hdr = s.hdr := rfl
@[simp] theorem State.complete_fip (s : State) (st : Status) : (s.complete st).fip = s.fip := rfl
@[simp] theorem State.complete_wire (s : State) (st : Status) : (s.complete st).wire = s.wire := rfl
@[simp] theorem State.complete_pay (s : State) (st : Status) : (s.complete st).pay = s.pay := rfl
@[simp] theorem State.complete_crcAcc (s : State) (st : Status) :
    (s.complete st).crcAcc = s.crcAcc := rfl
@[simp] theorem State.complete_inReset (s : State) (st : Status) :
    (s.complete st).inReset = s.inReset := rfl
@[simp] theorem State.complete_draws (s : State) (st : Status) :
    (s.complete st).draws = s.draws := rfl
@[simp] theorem State.complete_inputs (s : State) (st : Status) :
    (s.complete st).inputs = s.inputs := rfl
@[simp] theorem State.complete_replies (s : State) (st : Status) :
    (s.complete st).replies = s.replies := rfl

/-! ### completeBadOp -/

@[simp] theorem State.completeBadOp_engine (s : State) :
    (s.completeBadOp).engine = .idle (some .badOp) := rfl
@[simp] theorem State.completeBadOp_wireLen (s : State) :
    (s.completeBadOp).wireLen = s.wireLen := rfl
@[simp] theorem State.completeBadOp_payLen (s : State) : (s.completeBadOp).payLen = s.payLen := rfl
@[simp] theorem State.completeBadOp_frmSof (s : State) : (s.completeBadOp).frmSof = s.frmSof := rfl
@[simp] theorem State.completeBadOp_frmEof (s : State) : (s.completeBadOp).frmEof = s.frmEof := rfl
@[simp] theorem State.completeBadOp_frmHdrv (s : State) :
    (s.completeBadOp).frmHdrv = s.frmHdrv := rfl
@[simp] theorem State.completeBadOp_hdr (s : State) : (s.completeBadOp).hdr = s.hdr := rfl
@[simp] theorem State.completeBadOp_fip (s : State) : (s.completeBadOp).fip = s.fip := rfl
@[simp] theorem State.completeBadOp_wire (s : State) : (s.completeBadOp).wire = s.wire := rfl
@[simp] theorem State.completeBadOp_pay (s : State) : (s.completeBadOp).pay = s.pay := rfl
@[simp] theorem State.completeBadOp_crcAcc (s : State) : (s.completeBadOp).crcAcc = s.crcAcc := rfl
@[simp] theorem State.completeBadOp_inReset (s : State) :
    (s.completeBadOp).inReset = s.inReset := rfl
@[simp] theorem State.completeBadOp_draws (s : State) : (s.completeBadOp).draws = s.draws := rfl
@[simp] theorem State.completeBadOp_inputs (s : State) : (s.completeBadOp).inputs = s.inputs := rfl
@[simp] theorem State.completeBadOp_replies (s : State) :
    (s.completeBadOp).replies = s.replies := rfl

/-! ### writeFip -/

@[simp] theorem State.writeFip_engine (s : State) (f : FipFrame) :
    (s.writeFip f).engine = s.engine := rfl
@[simp] theorem State.writeFip_wireLen (s : State) (f : FipFrame) :
    (s.writeFip f).wireLen = s.wireLen := rfl
@[simp] theorem State.writeFip_payLen (s : State) (f : FipFrame) :
    (s.writeFip f).payLen = s.payLen := rfl
@[simp] theorem State.writeFip_frmSof (s : State) (f : FipFrame) :
    (s.writeFip f).frmSof = s.frmSof := rfl
@[simp] theorem State.writeFip_frmEof (s : State) (f : FipFrame) :
    (s.writeFip f).frmEof = s.frmEof := rfl
@[simp] theorem State.writeFip_frmHdrv (s : State) (f : FipFrame) :
    (s.writeFip f).frmHdrv = s.frmHdrv := rfl
@[simp] theorem State.writeFip_hdr (s : State) (f : FipFrame) : (s.writeFip f).hdr = s.hdr := rfl
@[simp] theorem State.writeFip_fip (s : State) (f : FipFrame) :
    (s.writeFip f).fip =
    { ver := f.version, proto := f.proto, sub := f.subcode, dll := f.dll, fpma := f.fpma,
      spma := f.spma, afl := f.afl, sol := f.sol, fcf := f.fcf } := rfl
@[simp] theorem State.writeFip_wire (s : State) (f : FipFrame) : (s.writeFip f).wire = s.wire := rfl
@[simp] theorem State.writeFip_pay (s : State) (f : FipFrame) : (s.writeFip f).pay = s.pay := rfl
@[simp] theorem State.writeFip_crcAcc (s : State) (f : FipFrame) :
    (s.writeFip f).crcAcc = s.crcAcc := rfl
@[simp] theorem State.writeFip_inReset (s : State) (f : FipFrame) :
    (s.writeFip f).inReset = s.inReset := rfl
@[simp] theorem State.writeFip_draws (s : State) (f : FipFrame) :
    (s.writeFip f).draws = s.draws := rfl
@[simp] theorem State.writeFip_inputs (s : State) (f : FipFrame) :
    (s.writeFip f).inputs = s.inputs := rfl
@[simp] theorem State.writeFip_replies (s : State) (f : FipFrame) :
    (s.writeFip f).replies = s.replies := rfl

/-! ### writeHeader -/

@[simp] theorem State.writeHeader_engine (s : State) (h : Header) :
    (s.writeHeader h).engine = s.engine := rfl
@[simp] theorem State.writeHeader_wireLen (s : State) (h : Header) :
    (s.writeHeader h).wireLen = s.wireLen := rfl
@[simp] theorem State.writeHeader_payLen (s : State) (h : Header) :
    (s.writeHeader h).payLen = s.payLen := rfl
@[simp] theorem State.writeHeader_frmSof (s : State) (h : Header) :
    (s.writeHeader h).frmSof = s.frmSof := rfl
@[simp] theorem State.writeHeader_frmEof (s : State) (h : Header) :
    (s.writeHeader h).frmEof = s.frmEof := rfl
@[simp] theorem State.writeHeader_frmHdrv (s : State) (h : Header) :
    (s.writeHeader h).frmHdrv = s.frmHdrv := rfl
@[simp] theorem State.writeHeader_hdr (s : State) (h : Header) :
    (s.writeHeader h).hdr =
    { rctl := h.rctl, did := unbe24 h.did, prio := h.prio, sid := unbe24 h.sid, typ := h.typ,
      fctl := unbe24 h.fctl, seqid := h.seqid, dfctl := h.dfctl, seqcnt := h.seqcnt,
      oxid := h.oxid, rxid := h.rxid, param := h.param } := rfl
@[simp] theorem State.writeHeader_fip (s : State) (h : Header) :
    (s.writeHeader h).fip = s.fip := rfl
@[simp] theorem State.writeHeader_wire (s : State) (h : Header) :
    (s.writeHeader h).wire = s.wire := rfl
@[simp] theorem State.writeHeader_pay (s : State) (h : Header) :
    (s.writeHeader h).pay = s.pay := rfl
@[simp] theorem State.writeHeader_crcAcc (s : State) (h : Header) :
    (s.writeHeader h).crcAcc = s.crcAcc := rfl
@[simp] theorem State.writeHeader_inReset (s : State) (h : Header) :
    (s.writeHeader h).inReset = s.inReset := rfl
@[simp] theorem State.writeHeader_draws (s : State) (h : Header) :
    (s.writeHeader h).draws = s.draws := rfl
@[simp] theorem State.writeHeader_inputs (s : State) (h : Header) :
    (s.writeHeader h).inputs = s.inputs := rfl
@[simp] theorem State.writeHeader_replies (s : State) (h : Header) :
    (s.writeHeader h).replies = s.replies := rfl

/-! ### resetEngine -/

@[simp] theorem State.resetEngine_engine (s : State) : (s.resetEngine).engine = .idle none := rfl
@[simp] theorem State.resetEngine_wireLen (s : State) : (s.resetEngine).wireLen = 0 := rfl
@[simp] theorem State.resetEngine_payLen (s : State) : (s.resetEngine).payLen = 0 := rfl
@[simp] theorem State.resetEngine_frmSof (s : State) : (s.resetEngine).frmSof = 0 := rfl
@[simp] theorem State.resetEngine_frmEof (s : State) : (s.resetEngine).frmEof = 0 := rfl
@[simp] theorem State.resetEngine_frmHdrv (s : State) : (s.resetEngine).frmHdrv = false := rfl
@[simp] theorem State.resetEngine_hdr (s : State) : (s.resetEngine).hdr = .reset := rfl
@[simp] theorem State.resetEngine_fip (s : State) : (s.resetEngine).fip = .reset := rfl
@[simp] theorem State.resetEngine_wire (s : State) : (s.resetEngine).wire = [] := rfl
@[simp] theorem State.resetEngine_pay (s : State) : (s.resetEngine).pay = [] := rfl
@[simp] theorem State.resetEngine_crcAcc (s : State) :
    (s.resetEngine).crcAcc = Config.freeWord s.draws := rfl
@[simp] theorem State.resetEngine_inReset (s : State) : (s.resetEngine).inReset = s.inReset := rfl
@[simp] theorem State.resetEngine_draws (s : State) : (s.resetEngine).draws = s.draws + 1 := rfl
@[simp] theorem State.resetEngine_inputs (s : State) : (s.resetEngine).inputs = s.inputs := rfl
@[simp] theorem State.resetEngine_replies (s : State) : (s.resetEngine).replies = s.replies := rfl

/-! ### crcInit -/

@[simp] theorem State.crcInit_engine (s : State) : (s.crcInit).engine = s.engine := rfl
@[simp] theorem State.crcInit_wireLen (s : State) : (s.crcInit).wireLen = s.wireLen := rfl
@[simp] theorem State.crcInit_payLen (s : State) : (s.crcInit).payLen = s.payLen := rfl
@[simp] theorem State.crcInit_frmSof (s : State) : (s.crcInit).frmSof = s.frmSof := rfl
@[simp] theorem State.crcInit_frmEof (s : State) : (s.crcInit).frmEof = s.frmEof := rfl
@[simp] theorem State.crcInit_frmHdrv (s : State) : (s.crcInit).frmHdrv = s.frmHdrv := rfl
@[simp] theorem State.crcInit_hdr (s : State) : (s.crcInit).hdr = s.hdr := rfl
@[simp] theorem State.crcInit_fip (s : State) : (s.crcInit).fip = s.fip := rfl
@[simp] theorem State.crcInit_wire (s : State) : (s.crcInit).wire = s.wire := rfl
@[simp] theorem State.crcInit_pay (s : State) : (s.crcInit).pay = s.pay := rfl
@[simp] theorem State.crcInit_crcAcc (s : State) : (s.crcInit).crcAcc = crcOnes := rfl
@[simp] theorem State.crcInit_inReset (s : State) : (s.crcInit).inReset = s.inReset := rfl
@[simp] theorem State.crcInit_draws (s : State) : (s.crcInit).draws = s.draws := rfl
@[simp] theorem State.crcInit_inputs (s : State) : (s.crcInit).inputs = s.inputs := rfl
@[simp] theorem State.crcInit_replies (s : State) : (s.crcInit).replies = s.replies := rfl

/-! ### crcByte -/

@[simp] theorem State.crcByte_engine (s : State) (b : Byte) : (s.crcByte b).engine = s.engine := rfl
@[simp] theorem State.crcByte_wireLen (s : State) (b : Byte) :
    (s.crcByte b).wireLen = s.wireLen := rfl
@[simp] theorem State.crcByte_payLen (s : State) (b : Byte) : (s.crcByte b).payLen = s.payLen := rfl
@[simp] theorem State.crcByte_frmSof (s : State) (b : Byte) : (s.crcByte b).frmSof = s.frmSof := rfl
@[simp] theorem State.crcByte_frmEof (s : State) (b : Byte) : (s.crcByte b).frmEof = s.frmEof := rfl
@[simp] theorem State.crcByte_frmHdrv (s : State) (b : Byte) :
    (s.crcByte b).frmHdrv = s.frmHdrv := rfl
@[simp] theorem State.crcByte_hdr (s : State) (b : Byte) : (s.crcByte b).hdr = s.hdr := rfl
@[simp] theorem State.crcByte_fip (s : State) (b : Byte) : (s.crcByte b).fip = s.fip := rfl
@[simp] theorem State.crcByte_wire (s : State) (b : Byte) : (s.crcByte b).wire = s.wire := rfl
@[simp] theorem State.crcByte_pay (s : State) (b : Byte) : (s.crcByte b).pay = s.pay := rfl
@[simp] theorem State.crcByte_crcAcc (s : State) (b : Byte) :
    (s.crcByte b).crcAcc = crcStep s.crcAcc b := rfl
@[simp] theorem State.crcByte_inReset (s : State) (b : Byte) :
    (s.crcByte b).inReset = s.inReset := rfl
@[simp] theorem State.crcByte_draws (s : State) (b : Byte) : (s.crcByte b).draws = s.draws := rfl
@[simp] theorem State.crcByte_inputs (s : State) (b : Byte) : (s.crcByte b).inputs = s.inputs := rfl
@[simp] theorem State.crcByte_replies (s : State) (b : Byte) :
    (s.crcByte b).replies = s.replies := rfl

/-! ### crcRelease -/

@[simp] theorem State.crcRelease_engine (s : State) : (s.crcRelease).engine = s.engine := rfl
@[simp] theorem State.crcRelease_wireLen (s : State) : (s.crcRelease).wireLen = s.wireLen := rfl
@[simp] theorem State.crcRelease_payLen (s : State) : (s.crcRelease).payLen = s.payLen := rfl
@[simp] theorem State.crcRelease_frmSof (s : State) : (s.crcRelease).frmSof = s.frmSof := rfl
@[simp] theorem State.crcRelease_frmEof (s : State) : (s.crcRelease).frmEof = s.frmEof := rfl
@[simp] theorem State.crcRelease_frmHdrv (s : State) : (s.crcRelease).frmHdrv = s.frmHdrv := rfl
@[simp] theorem State.crcRelease_hdr (s : State) : (s.crcRelease).hdr = s.hdr := rfl
@[simp] theorem State.crcRelease_fip (s : State) : (s.crcRelease).fip = s.fip := rfl
@[simp] theorem State.crcRelease_wire (s : State) : (s.crcRelease).wire = s.wire := rfl
@[simp] theorem State.crcRelease_pay (s : State) : (s.crcRelease).pay = s.pay := rfl
@[simp] theorem State.crcRelease_crcAcc (s : State) :
    (s.crcRelease).crcAcc = Config.freeWord s.draws := rfl
@[simp] theorem State.crcRelease_inReset (s : State) : (s.crcRelease).inReset = s.inReset := rfl
@[simp] theorem State.crcRelease_draws (s : State) : (s.crcRelease).draws = s.draws + 1 := rfl
@[simp] theorem State.crcRelease_inputs (s : State) : (s.crcRelease).inputs = s.inputs := rfl
@[simp] theorem State.crcRelease_replies (s : State) : (s.crcRelease).replies = s.replies := rfl

/-! ### withCrcAcc -/

@[simp] theorem State.withCrcAcc_engine (s : State) (x : Word) :
    (s.withCrcAcc x).engine = s.engine := rfl
@[simp] theorem State.withCrcAcc_wireLen (s : State) (x : Word) :
    (s.withCrcAcc x).wireLen = s.wireLen := rfl
@[simp] theorem State.withCrcAcc_payLen (s : State) (x : Word) :
    (s.withCrcAcc x).payLen = s.payLen := rfl
@[simp] theorem State.withCrcAcc_frmSof (s : State) (x : Word) :
    (s.withCrcAcc x).frmSof = s.frmSof := rfl
@[simp] theorem State.withCrcAcc_frmEof (s : State) (x : Word) :
    (s.withCrcAcc x).frmEof = s.frmEof := rfl
@[simp] theorem State.withCrcAcc_frmHdrv (s : State) (x : Word) :
    (s.withCrcAcc x).frmHdrv = s.frmHdrv := rfl
@[simp] theorem State.withCrcAcc_hdr (s : State) (x : Word) :
    (s.withCrcAcc x).hdr = s.hdr := rfl
@[simp] theorem State.withCrcAcc_fip (s : State) (x : Word) :
    (s.withCrcAcc x).fip = s.fip := rfl
@[simp] theorem State.withCrcAcc_wire (s : State) (x : Word) :
    (s.withCrcAcc x).wire = s.wire := rfl
@[simp] theorem State.withCrcAcc_pay (s : State) (x : Word) :
    (s.withCrcAcc x).pay = s.pay := rfl
@[simp] theorem State.withCrcAcc_crcAcc (s : State) (x : Word) :
    (s.withCrcAcc x).crcAcc = x := rfl
@[simp] theorem State.withCrcAcc_inReset (s : State) (x : Word) :
    (s.withCrcAcc x).inReset = s.inReset := rfl
@[simp] theorem State.withCrcAcc_draws (s : State) (x : Word) :
    (s.withCrcAcc x).draws = s.draws := rfl
@[simp] theorem State.withCrcAcc_inputs (s : State) (x : Word) :
    (s.withCrcAcc x).inputs = s.inputs := rfl
@[simp] theorem State.withCrcAcc_replies (s : State) (x : Word) :
    (s.withCrcAcc x).replies = s.replies := rfl

/-! ### setBuf and memWrite -/

@[simp] theorem State.setBuf_engine (s : State) (buf : Buffer) (m : Memory) :
    (s.setBuf buf m).engine = s.engine := by cases buf <;> rfl
@[simp] theorem State.memWrite_engine (s : State) (buf : Buffer) (off : Nat) (v : Bytes) :
    (s.memWrite buf off v).engine = s.engine := by cases buf <;> rfl
@[simp] theorem State.setBuf_wireLen (s : State) (buf : Buffer) (m : Memory) :
    (s.setBuf buf m).wireLen = s.wireLen := by cases buf <;> rfl
@[simp] theorem State.memWrite_wireLen (s : State) (buf : Buffer) (off : Nat) (v : Bytes) :
    (s.memWrite buf off v).wireLen = s.wireLen := by cases buf <;> rfl
@[simp] theorem State.setBuf_payLen (s : State) (buf : Buffer) (m : Memory) :
    (s.setBuf buf m).payLen = s.payLen := by cases buf <;> rfl
@[simp] theorem State.memWrite_payLen (s : State) (buf : Buffer) (off : Nat) (v : Bytes) :
    (s.memWrite buf off v).payLen = s.payLen := by cases buf <;> rfl
@[simp] theorem State.setBuf_frmSof (s : State) (buf : Buffer) (m : Memory) :
    (s.setBuf buf m).frmSof = s.frmSof := by cases buf <;> rfl
@[simp] theorem State.memWrite_frmSof (s : State) (buf : Buffer) (off : Nat) (v : Bytes) :
    (s.memWrite buf off v).frmSof = s.frmSof := by cases buf <;> rfl
@[simp] theorem State.setBuf_frmEof (s : State) (buf : Buffer) (m : Memory) :
    (s.setBuf buf m).frmEof = s.frmEof := by cases buf <;> rfl
@[simp] theorem State.memWrite_frmEof (s : State) (buf : Buffer) (off : Nat) (v : Bytes) :
    (s.memWrite buf off v).frmEof = s.frmEof := by cases buf <;> rfl
@[simp] theorem State.setBuf_frmHdrv (s : State) (buf : Buffer) (m : Memory) :
    (s.setBuf buf m).frmHdrv = s.frmHdrv := by cases buf <;> rfl
@[simp] theorem State.memWrite_frmHdrv (s : State) (buf : Buffer) (off : Nat) (v : Bytes) :
    (s.memWrite buf off v).frmHdrv = s.frmHdrv := by cases buf <;> rfl
@[simp] theorem State.setBuf_hdr (s : State) (buf : Buffer) (m : Memory) :
    (s.setBuf buf m).hdr = s.hdr := by cases buf <;> rfl
@[simp] theorem State.memWrite_hdr (s : State) (buf : Buffer) (off : Nat) (v : Bytes) :
    (s.memWrite buf off v).hdr = s.hdr := by cases buf <;> rfl
@[simp] theorem State.setBuf_fip (s : State) (buf : Buffer) (m : Memory) :
    (s.setBuf buf m).fip = s.fip := by cases buf <;> rfl
@[simp] theorem State.memWrite_fip (s : State) (buf : Buffer) (off : Nat) (v : Bytes) :
    (s.memWrite buf off v).fip = s.fip := by cases buf <;> rfl
@[simp] theorem State.setBuf_crcAcc (s : State) (buf : Buffer) (m : Memory) :
    (s.setBuf buf m).crcAcc = s.crcAcc := by cases buf <;> rfl
@[simp] theorem State.memWrite_crcAcc (s : State) (buf : Buffer) (off : Nat) (v : Bytes) :
    (s.memWrite buf off v).crcAcc = s.crcAcc := by cases buf <;> rfl
@[simp] theorem State.setBuf_inReset (s : State) (buf : Buffer) (m : Memory) :
    (s.setBuf buf m).inReset = s.inReset := by cases buf <;> rfl
@[simp] theorem State.memWrite_inReset (s : State) (buf : Buffer) (off : Nat) (v : Bytes) :
    (s.memWrite buf off v).inReset = s.inReset := by cases buf <;> rfl
@[simp] theorem State.setBuf_draws (s : State) (buf : Buffer) (m : Memory) :
    (s.setBuf buf m).draws = s.draws := by cases buf <;> rfl
@[simp] theorem State.memWrite_draws (s : State) (buf : Buffer) (off : Nat) (v : Bytes) :
    (s.memWrite buf off v).draws = s.draws := by cases buf <;> rfl
@[simp] theorem State.setBuf_inputs (s : State) (buf : Buffer) (m : Memory) :
    (s.setBuf buf m).inputs = s.inputs := by cases buf <;> rfl
@[simp] theorem State.memWrite_inputs (s : State) (buf : Buffer) (off : Nat) (v : Bytes) :
    (s.memWrite buf off v).inputs = s.inputs := by cases buf <;> rfl
@[simp] theorem State.setBuf_replies (s : State) (buf : Buffer) (m : Memory) :
    (s.setBuf buf m).replies = s.replies := by cases buf <;> rfl
@[simp] theorem State.memWrite_replies (s : State) (buf : Buffer) (off : Nat) (v : Bytes) :
    (s.memWrite buf off v).replies = s.replies := by cases buf <;> rfl
@[simp] theorem State.setBuf_wire_wire (s : State) (m : Memory) : (s.setBuf .wire m).wire = m := rfl
@[simp] theorem State.setBuf_wire_pay (s : State) (m : Memory) : (s.setBuf .wire m).pay = s.pay := rfl
@[simp] theorem State.memWrite_wire_wire (s : State) (off : Nat) (v : Bytes) :
    (s.memWrite .wire off v).wire = s.wire.putAll off v := rfl
@[simp] theorem State.memWrite_wire_pay (s : State) (off : Nat) (v : Bytes) :
    (s.memWrite .wire off v).pay = s.pay := rfl
@[simp] theorem State.buf_wire (s : State) : s.buf .wire = s.wire := rfl
@[simp] theorem State.setBuf_pay_pay (s : State) (m : Memory) : (s.setBuf .pay m).pay = m := rfl
@[simp] theorem State.setBuf_pay_wire (s : State) (m : Memory) : (s.setBuf .pay m).wire = s.wire := rfl
@[simp] theorem State.memWrite_pay_pay (s : State) (off : Nat) (v : Bytes) :
    (s.memWrite .pay off v).pay = s.pay.putAll off v := rfl
@[simp] theorem State.memWrite_pay_wire (s : State) (off : Nat) (v : Bytes) :
    (s.memWrite .pay off v).wire = s.wire := rfl
@[simp] theorem State.buf_pay (s : State) : s.buf .pay = s.pay := rfl

/-! ### memRead: only the free values taken change -/

@[simp] theorem State.memRead_engine (s : State) (buf : Buffer) (off n : Nat) :
    (s.memRead buf off n).2.engine = s.engine := rfl
@[simp] theorem State.memRead_wireLen (s : State) (buf : Buffer) (off n : Nat) :
    (s.memRead buf off n).2.wireLen = s.wireLen := rfl
@[simp] theorem State.memRead_payLen (s : State) (buf : Buffer) (off n : Nat) :
    (s.memRead buf off n).2.payLen = s.payLen := rfl
@[simp] theorem State.memRead_frmSof (s : State) (buf : Buffer) (off n : Nat) :
    (s.memRead buf off n).2.frmSof = s.frmSof := rfl
@[simp] theorem State.memRead_frmEof (s : State) (buf : Buffer) (off n : Nat) :
    (s.memRead buf off n).2.frmEof = s.frmEof := rfl
@[simp] theorem State.memRead_frmHdrv (s : State) (buf : Buffer) (off n : Nat) :
    (s.memRead buf off n).2.frmHdrv = s.frmHdrv := rfl
@[simp] theorem State.memRead_hdr (s : State) (buf : Buffer) (off n : Nat) :
    (s.memRead buf off n).2.hdr = s.hdr := rfl
@[simp] theorem State.memRead_fip (s : State) (buf : Buffer) (off n : Nat) :
    (s.memRead buf off n).2.fip = s.fip := rfl
@[simp] theorem State.memRead_wire (s : State) (buf : Buffer) (off n : Nat) :
    (s.memRead buf off n).2.wire = s.wire := rfl
@[simp] theorem State.memRead_pay (s : State) (buf : Buffer) (off n : Nat) :
    (s.memRead buf off n).2.pay = s.pay := rfl
@[simp] theorem State.memRead_crcAcc (s : State) (buf : Buffer) (off n : Nat) :
    (s.memRead buf off n).2.crcAcc = s.crcAcc := rfl
@[simp] theorem State.memRead_inReset (s : State) (buf : Buffer) (off n : Nat) :
    (s.memRead buf off n).2.inReset = s.inReset := rfl
@[simp] theorem State.memRead_draws (s : State) (buf : Buffer) (off n : Nat) :
    (s.memRead buf off n).2.draws = ((s.buf buf).readAll off n s.draws).2 := rfl
@[simp] theorem State.memRead_inputs (s : State) (buf : Buffer) (off n : Nat) :
    (s.memRead buf off n).2.inputs = s.inputs := rfl
@[simp] theorem State.memRead_replies (s : State) (buf : Buffer) (off n : Nat) :
    (s.memRead buf off n).2.replies = s.replies := rfl
@[simp] theorem State.memRead_fst (s : State) (buf : Buffer) (off n : Nat) :
    (s.memRead buf off n).1 = ((s.buf buf).readAll off n s.draws).1 := rfl

/-! ### writeFrame -/

@[simp] theorem State.writeFrame_engine (s : State) (f : Frame) : (s.writeFrame f).engine = s.engine := by
  unfold State.writeFrame; cases f.hdr <;> rfl
@[simp] theorem State.writeFrame_wireLen (s : State) (f : Frame) : (s.writeFrame f).wireLen = s.wireLen := by
  unfold State.writeFrame; cases f.hdr <;> rfl
@[simp] theorem State.writeFrame_payLen (s : State) (f : Frame) : (s.writeFrame f).payLen = BitVec.ofNat 17 f.payload.length := by
  unfold State.writeFrame; cases f.hdr <;> rfl
@[simp] theorem State.writeFrame_frmSof (s : State) (f : Frame) : (s.writeFrame f).frmSof = f.sof := by
  unfold State.writeFrame; cases f.hdr <;> rfl
@[simp] theorem State.writeFrame_frmEof (s : State) (f : Frame) : (s.writeFrame f).frmEof = f.eof := by
  unfold State.writeFrame; cases f.hdr <;> rfl
@[simp] theorem State.writeFrame_frmHdrv (s : State) (f : Frame) : (s.writeFrame f).frmHdrv = f.hdr.isSome := by
  unfold State.writeFrame; cases f.hdr <;> rfl
@[simp] theorem State.writeFrame_fip (s : State) (f : Frame) : (s.writeFrame f).fip = s.fip := by
  unfold State.writeFrame; cases f.hdr <;> rfl
@[simp] theorem State.writeFrame_wire (s : State) (f : Frame) : (s.writeFrame f).wire = s.wire := by
  unfold State.writeFrame; cases f.hdr <;> rfl
@[simp] theorem State.writeFrame_pay (s : State) (f : Frame) : (s.writeFrame f).pay = s.pay.putAll 0 f.payload := by
  unfold State.writeFrame; cases f.hdr <;> rfl
@[simp] theorem State.writeFrame_crcAcc (s : State) (f : Frame) : (s.writeFrame f).crcAcc = s.crcAcc := by
  unfold State.writeFrame; cases f.hdr <;> rfl
@[simp] theorem State.writeFrame_inReset (s : State) (f : Frame) : (s.writeFrame f).inReset = s.inReset := by
  unfold State.writeFrame; cases f.hdr <;> rfl
@[simp] theorem State.writeFrame_draws (s : State) (f : Frame) : (s.writeFrame f).draws = s.draws := by
  unfold State.writeFrame; cases f.hdr <;> rfl
@[simp] theorem State.writeFrame_inputs (s : State) (f : Frame) : (s.writeFrame f).inputs = s.inputs := by
  unfold State.writeFrame; cases f.hdr <;> rfl
@[simp] theorem State.writeFrame_replies (s : State) (f : Frame) : (s.writeFrame f).replies = s.replies := by
  unfold State.writeFrame; cases f.hdr <;> rfl
theorem State.writeFrame_hdr (s : State) (f : Frame) (h : Header) (hf : f.hdr = some h) :
    (s.writeFrame f).hdr = (s.writeHeader h).hdr := by
  simp only [State.writeFrame, hf]; rfl

/-! ### readFrame -/

@[simp] theorem State.readFrame_engine (s : State) : s.readFrame.2.engine = s.engine := rfl
@[simp] theorem State.readFrame_wireLen (s : State) : s.readFrame.2.wireLen = s.wireLen := rfl
@[simp] theorem State.readFrame_payLen (s : State) : s.readFrame.2.payLen = s.payLen := rfl
@[simp] theorem State.readFrame_frmSof (s : State) : s.readFrame.2.frmSof = s.frmSof := rfl
@[simp] theorem State.readFrame_frmEof (s : State) : s.readFrame.2.frmEof = s.frmEof := rfl
@[simp] theorem State.readFrame_frmHdrv (s : State) : s.readFrame.2.frmHdrv = s.frmHdrv := rfl
@[simp] theorem State.readFrame_hdr (s : State) : s.readFrame.2.hdr = s.hdr := rfl
@[simp] theorem State.readFrame_fip (s : State) : s.readFrame.2.fip = s.fip := rfl
@[simp] theorem State.readFrame_wire (s : State) : s.readFrame.2.wire = s.wire := rfl
@[simp] theorem State.readFrame_pay (s : State) : s.readFrame.2.pay = s.pay := rfl
@[simp] theorem State.readFrame_crcAcc (s : State) : s.readFrame.2.crcAcc = s.crcAcc := rfl
@[simp] theorem State.readFrame_inReset (s : State) : s.readFrame.2.inReset = s.inReset := rfl
@[simp] theorem State.readFrame_inputs (s : State) : s.readFrame.2.inputs = s.inputs := rfl
@[simp] theorem State.readFrame_replies (s : State) : s.readFrame.2.replies = s.replies := rfl

/-! ### What STATUS shows -/

@[simp] theorem State.statusWord_of_engine (s : State) : s.statusWord = s.engine.statusWord := rfl
@[simp] theorem State.isBusy_of_engine (s : State) : s.isBusy = s.engine.isBusy := rfl
@[simp] theorem Engine.isBusy_idle (l : Option Status) : (Engine.idle l).isBusy = false := rfl
@[simp] theorem Engine.isBusy_busy (w : Word) (n : Nat) : (Engine.busy w n).isBusy = true := rfl

/-! ### The values STATUS reads (spec/95_test_vectors.md) -/

@[simp] theorem Engine.statusWord_busy (w : Word) (n : Nat) :
    (Engine.busy w n).statusWord = 0x01#32 := rfl
@[simp] theorem Engine.statusWord_none : (Engine.idle none).statusWord = 0x00#32 := rfl
@[simp] theorem Engine.statusWord_ok :
    (Engine.idle (some .ok)).statusWord = 0x02#32 := rfl
@[simp] theorem Engine.statusWord_bufferTooShort :
    (Engine.idle (some .bufferTooShort)).statusWord = 0x12#32 := rfl
@[simp] theorem Engine.statusWord_lengthMismatch :
    (Engine.idle (some .lengthMismatch)).statusWord = 0x22#32 := rfl
@[simp] theorem Engine.statusWord_invalidFrame :
    (Engine.idle (some .invalidFrame)).statusWord = 0x32#32 := rfl
@[simp] theorem Engine.statusWord_invalidCrc :
    (Engine.idle (some .invalidCrc)).statusWord = 0x42#32 := rfl
@[simp] theorem Engine.statusWord_missingHeader :
    (Engine.idle (some .missingHeader)).statusWord = 0x52#32 := rfl
@[simp] theorem Engine.statusWord_invalidVersion :
    (Engine.idle (some .invalidVersion)).statusWord = 0x62#32 := rfl
@[simp] theorem Engine.statusWord_badOp :
    (Engine.idle (some .badOp)).statusWord = 0x72#32 := rfl

end Sys2Proof.Machine
end

