-- ==== Sys2Proof/Laws/Crc.lean ====
section
/-! SUPPORT. The generator as a unit computes the function crc32, and leaves the machine released: nothing but CRC_ACC and the free values taken has changed. -/

namespace Sys2Proof.Machine

/-- The crcByte operations of a region, on the machine, are the fold of crcStep on CRC_ACC. -/
theorem State.foldl_crcByte (region : Bytes) (s : State) :
    region.foldl State.crcByte s = { s with crcAcc := region.foldl crcStep s.crcAcc } := by
  induction region generalizing s with
  | nil => rfl
  | cons b region ih => rw [List.foldl_cons, ih]; rfl

/-- What one use of the generator answers (R100, R104). -/
@[simp] theorem State.runCrc_fst (s : State) (region : Bytes) :
    (s.runCrc region).1 = crc32 region := by
  simp only [State.runCrc, State.foldl_crcByte]; rfl

/-- What one use of the generator leaves (R38, U7). -/
@[simp] theorem State.runCrc_snd (s : State) (region : Bytes) :
    (s.runCrc region).2 = s.crcRelease := by
  simp only [State.runCrc, State.foldl_crcByte]; rfl

/-- crc32 of a region and one more byte. -/
theorem foldl_crcStep_append (acc : Word) (d e : Bytes) :
    (d ++ e).foldl crcStep acc = e.foldl crcStep (d.foldl crcStep acc) :=
  List.foldl_append

end Sys2Proof.Machine
end

