-- ==== Sys2Proof/Laws/Codec.lean ====
section
/-! SUPPORT. The lengths of the wire encodings, and when a decoder accepts: the facts about the transforms that every later proof cites. -/

namespace Sys2Proof.Machine

@[simp] theorem zeros_length (n : Nat) : (zeros n).length = n := List.length_replicate

theorem slice_length (b : Bytes) (i j : Nat) (h : j ≤ b.length) : (slice b i j).length = j - i := by
  simp only [slice, List.length_take, List.length_drop]; omega

@[simp] theorem be16_length (x : BitVec 16) : (be16 x).length = 2 := rfl
@[simp] theorem be32_length (x : BitVec 32) : (be32 x).length = 4 := rfl
@[simp] theorem Bytes3.toBytes_length (a : Bytes3) : a.toBytes.length = 3 := rfl

/-- The register form of a 3-byte array loses nothing (R32). -/
@[simp] theorem be24_unbe24 (a : Bytes3) : be24 (unbe24 a) = a := by
  obtain ⟨x, y, z⟩ := a
  simp only [be24, unbe24, Bytes3.mk.injEq]
  refine ⟨?_, ?_, ?_⟩ <;> apply BitVec.eq_of_getLsbD_eq <;> intro i hi <;>
    simp only [BitVec.getLsbD_extractLsb', BitVec.getLsbD_append, hi, decide_true, Bool.true_and]
  · simp [show ¬ 16 + i < 8 by omega, show ¬ 16 + i - 8 < 8 by omega, show 16 + i - 8 - 8 = i by omega]
  · simp [show ¬ 8 + i < 8 by omega, hi]
  · simp [hi]

/-- Concatenation as a number: the left value is the more significant (R10). -/
theorem toNat_append_eq {n m : Nat} (x : BitVec n) (y : BitVec m) :
    (x ++ y).toNat = x.toNat * 2 ^ m + y.toNat := by
  rw [BitVec.toNat_append, ← Nat.shiftLeft_add_eq_or_of_lt y.isLt, Nat.shiftLeft_eq]

/-- Two bytes read big-endian are their concatenation (R11, R62). -/
theorem ofNat_unbe2 (a b : Byte) : BitVec.ofNat 16 (unbe [a, b]) = a ++ b := by
  have ha := a.isLt; have hb := b.isLt
  apply BitVec.eq_of_toNat_eq
  have e : (a ++ b : BitVec (8 + 8)).toNat = a.toNat * 2 ^ 8 + b.toNat := toNat_append_eq a b
  rw [BitVec.toNat_ofNat, Nat.mod_eq_of_lt]
  · exact (by simp [unbe] : unbe [a, b] = a.toNat * 2 ^ 8 + b.toNat).trans e.symm
  · simp only [unbe, List.foldl]; omega

/-- Four bytes read big-endian are their concatenation (R11, R62). -/
theorem ofNat_unbe4 (a b c d : Byte) : BitVec.ofNat 32 (unbe [a, b, c, d]) = a ++ b ++ c ++ d := by
  have ha := a.isLt; have hb := b.isLt; have hc := c.isLt; have hd := d.isLt
  apply BitVec.eq_of_toNat_eq
  have e : (a ++ b ++ c ++ d : BitVec (8 + 8 + 8 + 8)).toNat =
      ((a.toNat * 2 ^ 8 + b.toNat) * 2 ^ 8 + c.toNat) * 2 ^ 8 + d.toNat := by
    rw [toNat_append_eq, toNat_append_eq, toNat_append_eq]
  rw [BitVec.toNat_ofNat, Nat.mod_eq_of_lt]
  · exact (by simp [unbe] : unbe [a, b, c, d] = _).trans e.symm
  · simp only [unbe, List.foldl]; omega

@[simp] theorem hdrEncode_length (h : Header) : (hdrEncode h).length = 24 := rfl

theorem ceil4_ge (n : Nat) : n ≤ ceil4 n := by unfold ceil4; omega
theorem ceil4_lt (n : Nat) : ceil4 n < n + 4 := by unfold ceil4; omega
theorem ceil4_mod (n : Nat) : ceil4 n % 4 = 0 := by unfold ceil4; omega
theorem ceil4_of_mod {n : Nat} (h : n % 4 = 0) : ceil4 n = n := by unfold ceil4; omega

@[simp] theorem frmBody_length (h : Header) (p : Bytes) :
    (frmBody h p).length = 24 + ceil4 p.length := by
  have := ceil4_ge p.length
  simp only [frmBody, List.length_append, hdrEncode_length, zeros_length]; omega

@[simp] theorem frmAssemble_length (sof : Byte) (body : Bytes) (c : Word) (eof : Byte) :
    (frmAssemble sof body c eof).length = body.length + 12 := by
  simp only [frmAssemble, List.length_append, zeros_length, be32_length, List.length_cons,
    List.length_nil]
  omega

/-- hdrDecode accepts every sequence of 24 bytes (R125). -/
theorem hdrDecode_isOk {b : Bytes} (h : b.length = 24) : ∃ hd, hdrDecode b = .ok hd :=
  ⟨_, if_neg (by simp [h])⟩

theorem hdrDecode_error {b : Bytes} (h : b.length ≠ 24) : hdrDecode b = .error .lengthMismatch :=
  if_pos h

/-- A sequence that passes frmCheck has at least 36 bytes, in whole words (R151, R152). -/
theorem frmCheck_none {b : Bytes} (h : frmCheck b = none) :
    36 ≤ b.length ∧ (b.length - 36) % 4 = 0 ∧ slice b 0 3 = zeros 3 ∧
      slice b (b.length - 3) b.length = zeros 3 := by
  simp only [frmCheck] at h
  split at h
  · cases h
  · split at h
    · cases h
    · rename_i h1 h2
      simp only [not_or, Classical.not_not] at h2
      exact ⟨by omega, h2.2.2, h2.1, h2.2.1⟩

/-- The failure frmCheck gives is one of its two (R154). -/
theorem frmCheck_some {b : Bytes} {st : Status} (h : frmCheck b = some st) :
    (b.length < 36 ∧ st = .bufferTooShort) ∨ (36 ≤ b.length ∧ st = .invalidFrame) := by
  simp only [frmCheck] at h
  split at h
  · left; exact ⟨‹_›, (Option.some.inj h).symm⟩
  · split at h
    · right; exact ⟨by omega, (Option.some.inj h).symm⟩
    · cases h

/-- Once frmCheck has passed, the Frame is always extracted, with its Header and its padded payload (R155, R156). -/
theorem frmExtract_ok {b : Bytes} (h : 36 ≤ b.length) :
    ∃ f hd, frmExtract b = .ok f ∧ f.hdr = some hd ∧ hdrDecode (slice b 4 28) = .ok hd ∧
      f.sof = byteAt b 3 ∧ f.payload = slice b 28 (28 + (b.length - 36)) ∧
      f.eof = byteAt b (32 + (b.length - 36)) := by
  obtain ⟨hd, e⟩ := hdrDecode_isOk (b := slice b 4 28) (by rw [slice_length]; omega)
  have he : frmExtract b = .ok (Frame.mk (byteAt b 3) (some hd)
      (slice b 28 (28 + (b.length - 36))) (byteAt b (32 + (b.length - 36)))) := by
    simp only [frmExtract, e]
  exact ⟨_, hd, he, rfl, e, rfl, rfl, rfl⟩

/-- fipEncode produces ten bytes for version 1 (R172). -/
theorem fipEncode_ok {f : FipFrame} (h : f.version = Config.fipVersion) :
    ∃ b, fipEncode f = .ok b ∧ b.length = 10 :=
  ⟨_, if_neg (by simp [h]), rfl⟩

theorem fipEncode_error {f : FipFrame} (h : f.version ≠ Config.fipVersion) :
    fipEncode f = .error .invalidVersion :=
  if_pos h

/-- On ten bytes fipDecode fails with INVALID_FRAME or accepts (R176, R177, R178). -/
theorem fipDecode_cases {b : Bytes} (h : 10 ≤ b.length) :
    (fipBad b = true ∧ fipDecode b = .error .invalidFrame) ∨
      (fipBad b = false ∧ ∃ f, fipDecode b = .ok f) := by
  unfold fipDecode
  rw [if_neg (by omega)]
  cases hb : fipBad b
  · right; exact ⟨rfl, _, if_neg Bool.false_ne_true⟩
  · left; exact ⟨rfl, by simp⟩

end Sys2Proof.Machine
end

