-- ==== Sys2Proof/Laws/Memory.lean ====
section
/-! SUPPORT. The laws of a buffer: a read after a write, what a write leaves alone, that every operation keeps the canonical form and the capacity bound, and what a read of many bytes answers. -/

namespace Sys2Proof.Machine

/-- A write is read back at its own offset, and every other offset reads as before. -/
theorem Memory.byteAt?_put (m : Memory) (k : Nat) (v : Byte) (j : Nat) :
    (m.put k v).byteAt? j = if j = k then some v else m.byteAt? j := by
  induction m with
  | nil => by_cases h : j = k <;> simp [put, byteAt?, eq_comm, h]
  | cons x m ih =>
    obtain ⟨a, b⟩ := x
    unfold put
    split
    · by_cases h : j = k <;> simp [byteAt?, eq_comm, h]
    · split
      · subst_vars; by_cases h : j = a <;> simp [byteAt?, eq_comm, h]
      · by_cases h : a = j
        · subst h; simp [byteAt?]; omega
        · simp [byteAt?, h, ih]

@[simp] theorem Memory.byteAt?_put_self (m : Memory) (k : Nat) (v : Byte) :
    (m.put k v).byteAt? k = some v := by simp [byteAt?_put]

theorem Memory.byteAt?_put_ne (m : Memory) {k j : Nat} (v : Byte) (h : j ≠ k) :
    (m.put k v).byteAt? j = m.byteAt? j := by simp [byteAt?_put, h]

/-- Writing a sequence: inside its range the sequence's byte, outside it the old contents. -/
theorem Memory.byteAt?_putAll (m : Memory) (off : Nat) (v : Bytes) (j : Nat) :
    (m.putAll off v).byteAt? j =
      if off ≤ j ∧ j < off + v.length then v[j - off]? else m.byteAt? j := by
  induction v generalizing m off with
  | nil => rw [if_neg (by simp only [List.length_nil]; omega)]; rfl
  | cons x v ih =>
    simp only [putAll, ih, byteAt?_put, List.length_cons]
    by_cases h0 : j = off
    · subst h0
      rw [if_neg (by omega), if_pos rfl, if_pos (by omega), Nat.sub_self, List.getElem?_cons_zero]
    · by_cases h1 : off + 1 ≤ j ∧ j < off + 1 + v.length
      · have e : j - off = (j - (off + 1)) + 1 := by omega
        rw [if_pos h1, if_pos (by omega), e, List.getElem?_cons_succ]
      · rw [if_neg h1, if_neg h0, if_neg (by omega)]

/-- The keys of a buffer after a write are the old ones and the one written. -/
theorem Memory.mem_put {m : Memory} {k : Nat} {v : Byte} {c : Host.Cell} (h : c ∈ m.put k v) :
    c = (k, v) ∨ c ∈ m := by
  induction m with
  | nil => simpa [put] using h
  | cons x m ih =>
    obtain ⟨a, b⟩ := x
    unfold put at h
    split at h
    · simpa using h
    · split at h
      · rcases List.mem_cons.1 h with h | h <;> simp [h]
      · rcases List.mem_cons.1 h with h | h
        · simp [h]
        · rcases ih h with h | h <;> simp [h]

/-- A write keeps the canonical form. -/
theorem Memory.put_wf {m : Memory} (h : m.wf) (k : Nat) (v : Byte) : (m.put k v).wf := by
  induction m with
  | nil => simp [put, wf]
  | cons x m ih =>
    obtain ⟨a, b⟩ := x
    obtain ⟨h1, h2⟩ := List.pairwise_cons.1 h
    unfold put
    split
    · refine List.pairwise_cons.2 ⟨fun c hc => ?_, h⟩
      rcases List.mem_cons.1 hc with rfl | hc
      · assumption
      · have := h1 c hc; simp only at *; omega
    · split
      · subst_vars; exact List.pairwise_cons.2 ⟨h1, h2⟩
      · refine List.pairwise_cons.2 ⟨fun c hc => ?_, ih h2⟩
        rcases mem_put hc with rfl | hc
        · simp only; omega
        · exact h1 c hc

theorem Memory.putAll_wf {m : Memory} (h : m.wf) (off : Nat) (v : Bytes) : (m.putAll off v).wf := by
  induction v generalizing m off with
  | nil => exact h
  | cons x v ih => exact ih (put_wf h off x) (off + 1)

/-- A write within the capacity keeps a buffer canonical and within it. -/
theorem Memory.Within.putAll {m : Memory} {cap : Nat} (h : m.Within cap) (off : Nat) (v : Bytes)
    (hc : off + v.length ≤ cap) : (m.putAll off v).Within cap := by
  induction v generalizing m off with
  | nil => exact h
  | cons x v ih =>
    simp only [List.length_cons] at hc
    refine ih (m := m.put off x) ⟨put_wf h.1 off x, fun c hmem => ?_⟩ (off + 1) (by omega)
    rcases mem_put hmem with rfl | hmem
    · simp only; omega
    · exact h.2 c hmem

theorem Memory.Within.nil (cap : Nat) : Memory.Within [] cap :=
  ⟨List.Pairwise.nil, by simp⟩

@[simp] theorem Memory.byteAt?_nil (k : Nat) : Memory.byteAt? [] k = none := rfl

/-- MemRead answers as many bytes as it is asked for. -/
@[simp] theorem Memory.readAll_length (m : Memory) (off n d : Nat) :
    (m.readAll off n d).1.length = n := by
  induction n generalizing off d with
  | zero => rfl
  | succ n ih => unfold readAll; split <;> simp [ih]

/-- A read takes at most one free value a byte, and gives none back. -/
theorem Memory.readAll_draws (m : Memory) (off n d : Nat) :
    d ≤ (m.readAll off n d).2 ∧ (m.readAll off n d).2 ≤ d + n := by
  induction n generalizing off d with
  | zero => exact ⟨Nat.le_refl _, Nat.le_refl _⟩
  | succ n ih =>
    unfold readAll
    split
    · have := ih (off + 1) d; simp only; omega
    · have := ih (off + 1) (d + 1); simp only; omega

/-- A byte that has been written is what a read of a range that holds it answers there. -/
theorem Memory.readAll_getElem? (m : Memory) (off n d i : Nat) (b : Byte) (hi : i < n)
    (hb : m.byteAt? (off + i) = some b) : (m.readAll off n d).1[i]? = some b := by
  induction n generalizing off d i with
  | zero => omega
  | succ n ih =>
    cases i with
    | zero => unfold readAll; simp only [Nat.add_zero] at hb; simp [hb]
    | succ i =>
      have hb' : m.byteAt? (off + 1 + i) = some b := by rw [← hb]; congr 1; omega
      unfold readAll
      split <;> simp [ih (off + 1) _ i (by omega) hb']

/-- Reading a range all of which has been written answers what was written and takes no free value. -/
theorem Memory.readAll_of_written (m : Memory) (off d : Nat) (v : Bytes)
    (h : ∀ i (hi : i < v.length), m.byteAt? (off + i) = some v[i]) :
    m.readAll off v.length d = (v, d) := by
  induction v generalizing off with
  | nil => rfl
  | cons x v ih =>
    have h0 : m.byteAt? off = some x := h 0 (by simp)
    have ih' := ih (off + 1) (fun i hi => by
      have := h (i + 1) (by simpa using hi)
      simpa [Nat.add_assoc, Nat.add_comm 1] using this)
    simp [readAll, h0, ih']

/-- Reading back what has just been written. -/
theorem Memory.readAll_putAll (m : Memory) (off d : Nat) (v : Bytes) :
    (m.putAll off v).readAll off v.length d = (v, d) := by
  refine readAll_of_written _ _ _ _ fun i hi => ?_
  rw [byteAt?_putAll, if_pos (by omega), Nat.add_sub_cancel_left, List.getElem?_eq_getElem hi]

/-- A read depends on the contents of its own range only. -/
theorem Memory.readAll_congr (m m' : Memory) (off n d : Nat)
    (h : ∀ i, i < n → m.byteAt? (off + i) = m'.byteAt? (off + i)) :
    m.readAll off n d = m'.readAll off n d := by
  induction n generalizing off d with
  | zero => rfl
  | succ n ih =>
    have h0 : m.byteAt? off = m'.byteAt? off := by simpa using h 0 (by omega)
    have ih' := fun d => ih (off + 1) d (fun i hi => by
      have := h (i + 1) (by omega)
      simpa [Nat.add_assoc, Nat.add_comm 1] using this)
    unfold readAll
    rw [h0]
    simp only [ih']

end Sys2Proof.Machine
end

