-- ==== Sys2Proof/Laws/Exec.lean ====
section
/-! SUPPORT. Each command's meaning in the form that later proofs cite: the cases it has, with the condition of each on the state alone and the state it answers. -/

namespace Sys2Proof.Machine

/-- HDR.DEC on 24 bytes: the header of the bytes read is committed (R126). -/
theorem execHdrDec_ok {s : State} (h : s.wireLen.toNat = 24) :
    ∃ hd, hdrDecode (s.memRead .wire 0 24).1 = .ok hd ∧
      execHdrDec s = .next (((s.memRead .wire 0 24).2.writeHeader hd).complete .ok) := by
  obtain ⟨hd, e⟩ := hdrDecode_isOk (b := (s.memRead .wire 0 24).1) (by simp)
  exact ⟨hd, e, by simp only [execHdrDec, h, ne_eq, not_true_eq_false, if_false, e]⟩

theorem execHdrDec_fail {s : State} (h : s.wireLen.toNat ≠ 24) :
    execHdrDec s = .next (s.complete .lengthMismatch) :=
  if_pos h

/-- FRM.ENC with a Header (R146): the bytes are those of frmEncode on the Frame read (R145). -/
theorem execFrmEnc_ok {s : State} (h : s.frmHdrv = true) :
    ∃ out, frmEncode s.readFrame.1 = .ok out ∧ out.length = 36 + ceil4 s.payLen.toNat ∧
      execFrmEnc s = .next (((s.readFrame.2.crcRelease.memWrite .wire 0 out).setWireLen
        out.length).complete .ok) := by
  have e : s.readFrame.1.hdr = some s.readHeader := by simp [State.readFrame, h]
  refine ⟨frmAssemble s.readFrame.1.sof (frmBody s.readHeader s.readFrame.1.payload)
    (crc32 (frmBody s.readHeader s.readFrame.1.payload)) s.readFrame.1.eof,
    by simp only [frmEncode, e], ?_, ?_⟩
  · simp only [frmAssemble_length, frmBody_length]
    simp only [State.readFrame, State.memRead_fst, Memory.readAll_length]; omega
  · simp only [execFrmEnc, e, State.runCrc_fst, State.runCrc_snd]

theorem execFrmEnc_fail {s : State} (h : s.frmHdrv = false) :
    execFrmEnc s = .next (s.readFrame.2.complete .missingHeader) := by
  have e : s.readFrame.1.hdr = none := by simp [State.readFrame, h]
  simp only [execFrmEnc, e]

/-- FRM.DEC follows frmDecode on the bytes read (R155, R157): it commits the Frame, or reports the failure and commits nothing. -/
theorem execFrmDec_cases (s : State) :
    let r := s.memRead .wire 0 s.wireLen.toNat
    (∃ st, frmCheck r.1 = some st ∧ frmDecode r.1 = .error st ∧
      execFrmDec s = .next (r.2.complete st)) ∨
    (frmCheck r.1 = none ∧ frmDecode r.1 = .error .invalidCrc ∧
      execFrmDec s = .next (r.2.crcRelease.complete .invalidCrc)) ∨
    (frmCheck r.1 = none ∧ ∃ f hd, f.hdr = some hd ∧ f.payload.length = s.wireLen.toNat - 36 ∧
      frmDecode r.1 = .ok f ∧
      execFrmDec s = .next ((r.2.crcRelease.writeFrame f).complete .ok)) := by
  intro r
  have hl : r.1.length = s.wireLen.toNat := by simp [r]
  cases hc : frmCheck r.1 with
  | some st =>
    left
    exact ⟨st, rfl, by simp only [frmDecode, hc], by simp only [execFrmDec, r] at hc ⊢; simp only [hc]⟩
  | none =>
    right
    obtain ⟨hn, -, -, -⟩ := frmCheck_none hc
    obtain ⟨f, hd, he, hh, -, -, hp, -⟩ := frmExtract_ok hn
    by_cases hcrc : crc32 (frmRegion r.1) = frmStoredCrc r.1
    · right
      refine ⟨rfl, f, hd, hh, ?_, ?_, ?_⟩
      · rw [hp, slice_length _ _ _ (by omega), hl]; omega
      · simp only [frmDecode, hc, hcrc, ne_eq, not_true_eq_false, if_false]; exact he
      · simp only [execFrmDec]
        simp only [r] at hc hcrc he
        simp only [hc, State.runCrc_fst, State.runCrc_snd, hcrc, ne_eq, not_true_eq_false, if_false, he]
        rfl
    · left
      refine ⟨rfl, by simp only [frmDecode, hc, ne_eq, hcrc, not_false_eq_true, if_true], ?_⟩
      simp only [execFrmDec]
      simp only [r] at hc hcrc
      simp only [hc, State.runCrc_fst, State.runCrc_snd, ne_eq, hcrc, not_false_eq_true, if_true]
      rfl

/-- FIP.ENC with version 1 (R174). -/
theorem execFipEnc_ok {s : State} (h : s.fip.ver = Config.fipVersion) :
    ∃ b, fipEncode s.readFip = .ok b ∧ b.length = 10 ∧
      execFipEnc s = .next (((s.memWrite .wire 0 b).setWireLen 10).complete .ok) := by
  obtain ⟨b, e, hl⟩ := fipEncode_ok (f := s.readFip) h
  exact ⟨b, e, hl, by simp only [execFipEnc, e]⟩

theorem execFipEnc_fail {s : State} (h : s.fip.ver ≠ Config.fipVersion) :
    execFipEnc s = .next (s.complete .invalidVersion) := by
  simp only [execFipEnc, fipEncode_error (f := s.readFip) h]

theorem execFipDec_short {s : State} (h : s.wireLen.toNat < 10) :
    execFipDec s = .next (s.complete .bufferTooShort) :=
  if_pos h

/-- FIP.DEC on ten bytes or more follows fipDecode on the first ten (R178, R180). -/
theorem execFipDec_cases {s : State} (h : 10 ≤ s.wireLen.toNat) :
    let r := s.memRead .wire 0 10
    (fipBad r.1 = true ∧ execFipDec s = .next (r.2.complete .invalidFrame)) ∨
    (fipBad r.1 = false ∧ ∃ f, fipDecode r.1 = .ok f ∧
      execFipDec s = .next ((r.2.writeFip f).complete .ok)) := by
  intro r
  have h' : ¬ s.wireLen.toNat < 10 := by omega
  rcases fipDecode_cases (b := r.1) (by simp [r]) with ⟨hb, e⟩ | ⟨hb, f, e⟩
  · left; refine ⟨hb, ?_⟩
    simp only [execFipDec, h', if_false]; simp only [r] at e; simp only [e]; rfl
  · right; refine ⟨hb, f, e, ?_⟩
    simp only [execFipDec, h', if_false]; simp only [r] at e; simp only [e]; rfl

end Sys2Proof.Machine
end

