-- ==== Sys2Proof/Laws/HostPort.lean ====
section
/-! SUPPORT. The laws of the host port: which offset reaches which register or buffer word, and the cases a host read and a host write have. -/

namespace Sys2Proof.Machine

theorem Config.payMax_ge : 4 ≤ Config.payMax := by unfold Config.payMax; omega
theorem Config.payMax_le : Config.payMax ≤ 65500 := by
  have := Nat.mod_lt Config.payMaxSeed (show 0 < 16375 by decide)
  unfold Config.payMax; omega
theorem Config.payMax_mod : Config.payMax % 4 = 0 := by unfold Config.payMax; omega
theorem Config.wireMax_eq : Config.wireMax = Config.payMax + 36 := rfl
theorem Config.wireMax_le : Config.wireMax ≤ 65536 := by
  have := Config.payMax_le; unfold Config.wireMax; omega

/-- The address map finds every register at its own offset (R23). -/
@[simp] theorem target?_offset (r : Reg) : target? r.offset = some (.reg r) := by
  cases r <;> rfl

/-- Every register stands in the list of the map. -/
theorem Reg.mem_all (r : Reg) : r ∈ Reg.all := by cases r <;> decide

/-- Every register offset is a multiple of 4 below the windows. -/
theorem Reg.offset_lt (r : Reg) : r.offset.toNat % 4 = 0 ∧ r.offset.toNat < 0x10000 := by
  cases r <;> decide

theorem Reg.offset_injective {r r' : Reg} (h : r.offset = r'.offset) : r = r' := by
  have := target?_offset r
  rw [h, target?_offset] at this
  simpa [eq_comm] using this

theorem Buffer.holds_iff (buf : Buffer) (a : Addr) :
    buf.holds a = true ↔ buf.base ≤ a.toNat ∧ a.toNat < buf.base + buf.capacity := by
  rw [Buffer.holds, Bool.and_eq_true, decide_eq_true_iff, decide_eq_true_iff]

/-- What the address map answers (R23, R64). -/
theorem target?_cases (a : Addr) :
    (∃ r : Reg, r.offset = a ∧ target? a = some (.reg r)) ∨
    ((∀ r : Reg, r.offset ≠ a) ∧
      ((0x10000 ≤ a.toNat ∧ a.toNat < 0x10000 + Config.wireMax ∧
          target? a = some (.window .wire (a.toNat - 0x10000))) ∨
       (0x20000 ≤ a.toNat ∧ a.toNat < 0x20000 + Config.payMax ∧
          target? a = some (.window .pay (a.toNat - 0x20000))) ∨
       (¬ (0x10000 ≤ a.toNat ∧ a.toNat < 0x10000 + Config.wireMax) ∧
          ¬ (0x20000 ≤ a.toNat ∧ a.toNat < 0x20000 + Config.payMax) ∧ target? a = none))) := by
  have hw := Config.wireMax_le
  by_cases h : ∃ r : Reg, r.offset = a
  · obtain ⟨r, rfl⟩ := h; exact .inl ⟨r, rfl, target?_offset r⟩
  · have h' : ∀ r : Reg, r.offset ≠ a := fun r e => h ⟨r, e⟩
    refine .inr ⟨h', ?_⟩
    have hf : Reg.all.find? (fun r => r.offset == a) = none :=
      List.find?_eq_none.2 fun r _ => by simpa using h' r
    have e : target? a = if Buffer.wire.holds a then some (.window .wire (a.toNat - 0x10000))
        else if Buffer.pay.holds a then some (.window .pay (a.toNat - 0x20000)) else none := by
      unfold target?; rw [hf]; rfl
    rw [e]
    by_cases h1 : Buffer.wire.holds a = true
    · have h1' := (Buffer.holds_iff _ _).1 h1
      rw [if_pos h1]; exact .inl ⟨h1'.1, h1'.2, rfl⟩
    · rw [if_neg h1]
      by_cases h2 : Buffer.pay.holds a = true
      · have h2' := (Buffer.holds_iff _ _).1 h2
        rw [if_pos h2]; exact .inr (.inl ⟨h2'.1, h2'.2, rfl⟩)
      · rw [if_neg h2]
        exact .inr (.inr ⟨fun h => h1 ((Buffer.holds_iff _ _).2 h),
          fun h => h2 ((Buffer.holds_iff _ _).2 h), rfl⟩)

/-- The window of a buffer reaches the buffer: offset `base + k`, for a `k` that is a multiple of 4 below the capacity, is mapped to the word of bytes k to k+3 (R63, R64). -/
theorem target?_window (buf : Buffer) (k : Nat) (hk : k < buf.capacity) (h4 : k % 4 = 0) :
    (BitVec.ofNat 18 (buf.base + k) : Addr).toNat % 4 = 0 ∧
      target? (BitVec.ofNat 18 (buf.base + k)) = some (.window buf k) := by
  have hp := Config.payMax_le
  have hw := Config.wireMax_le
  have hb : (buf = .wire ∧ buf.base = 0x10000 ∧ buf.capacity = Config.wireMax) ∨
      (buf = .pay ∧ buf.base = 0x20000 ∧ buf.capacity = Config.payMax) := by
    cases buf
    · exact .inl ⟨rfl, rfl, rfl⟩
    · exact .inr ⟨rfl, rfl, rfl⟩
  have e : (BitVec.ofNat 18 (buf.base + k) : Addr).toNat = buf.base + k := by
    rw [BitVec.toNat_ofNat, Nat.mod_eq_of_lt]; omega
  refine ⟨by omega, ?_⟩
  rcases target?_cases (BitVec.ofNat 18 (buf.base + k)) with
    ⟨r, h, -⟩ | ⟨-, ⟨h1, h2, h⟩ | ⟨h1, h2, h⟩ | ⟨h1, h2, -⟩⟩
  · have := (Reg.offset_lt r).2
    rw [h] at this; omega
  · obtain ⟨rfl, h3, -⟩ : buf = .wire ∧ buf.base = 0x10000 ∧ _ := hb.resolve_right (by omega)
    rw [h, e, h3, Nat.add_sub_cancel_left]
  · obtain ⟨rfl, h3, -⟩ : buf = .pay ∧ buf.base = 0x20000 ∧ _ := hb.resolve_left (by omega)
    rw [h, e, h3, Nat.add_sub_cancel_left]
  · omega

/-- When an access is within the contract, and what it then reaches. -/
theorem State.checkAccess_ok {s : State} {bits : Nat} {a : Addr} {t : Target} :
    s.checkAccess bits a = .ok t ↔
      s.inReset = false ∧ bits = 32 ∧ a.toNat % 4 = 0 ∧ target? a = some t := by
  unfold State.checkAccess
  cases s.inReset <;> simp
  by_cases hb : bits = 32 <;> simp [hb]
  by_cases hm : a.toNat % 4 = 0 <;> simp [hm]
  cases target? a <;> simp

/-- A register access out of reset is always within the contract. -/
@[simp] theorem State.checkAccess_offset {s : State} (h : s.inReset = false) (r : Reg) :
    s.checkAccess 32 r.offset = .ok (.reg r) :=
  State.checkAccess_ok.2 ⟨h, rfl, (Reg.offset_lt r).1, target?_offset r⟩

/-- What a host read takes: free values, and nothing else (R67). -/
theorem State.readTarget_snd (s : State) (t : Target) :
    ∃ d, (s.readTarget t).2 = s.setDraws d := by
  unfold State.readTarget
  split
  · exact ⟨s.draws, rfl⟩
  · exact ⟨s.draws, rfl⟩
  · split
    · exact ⟨_, rfl⟩
    · exact ⟨s.draws, rfl⟩
  · split
    · exact ⟨_, rfl⟩
    · exact ⟨_, rfl⟩

/-- The cases of a host read: refused, or one reply more. -/
theorem State.hostRead_cases (s : State) (bits : Nat) (a : Addr) :
    (∃ e, s.checkAccess bits a = .error e ∧ s.hostRead bits a = .refused e) ∨
    (∃ t d, s.checkAccess bits a = .ok t ∧ s.hostRead bits a = .next { s with
      draws := d, replies := { addr := a, data := (s.readTarget t).1 } :: s.replies }) := by
  unfold State.hostRead
  cases s.checkAccess bits a with
  | error e => exact .inl ⟨e, rfl, rfl⟩
  | ok t =>
    obtain ⟨d, hd⟩ := s.readTarget_snd t
    exact .inr ⟨t, d, rfl, by simp only [hd]; rfl⟩

/-- The cases of a host write: outside the contract, while BUSY, a register, or a window word. -/
theorem State.hostWrite_cases (s : State) (bits : Nat) (a : Addr) (v : Word) :
    (∃ e, s.checkAccess bits a = .error e ∧ s.hostWrite bits a v = .refused e) ∨
    (s.isBusy = true ∧ s.hostWrite bits a v = .refused (.writeWhileBusy a)) ∨
    (s.isBusy = false ∧ ∃ r, s.checkAccess bits a = .ok (.reg r) ∧
      s.hostWrite bits a v = s.writeReg v r) ∨
    (s.isBusy = false ∧ ∃ buf k, s.checkAccess bits a = .ok (.window buf k) ∧
      s.hostWrite bits a v = .next (s.memWrite buf k (be32 v))) := by
  unfold State.hostWrite
  cases s.checkAccess bits a with
  | error e => exact .inl ⟨e, rfl, rfl⟩
  | ok t =>
    right
    cases hb : s.isBusy
    · right
      cases t with
      | reg r => exact .inl ⟨rfl, r, rfl, rfl⟩
      | window buf k => exact .inr ⟨rfl, buf, k, rfl, rfl⟩
    · exact .inl ⟨rfl, rfl⟩

end Sys2Proof.Machine
end

