-- ==== Sys2Proof/Laws/PerInstr.lean ====
section
/-! SUPPORT. The per-instruction family EncodedWord: the word a command is encoded as has RES zero, selects a command, and fits the opcode table's row of that command. -/

namespace Sys2Proof.Laws.EncodedWord

/-- The encoded word is a well-formed command word whose reserved field is zero and whose OP field is the table's (R80, R81, R82). -/
def Statement (i : Sys2Proof.Instr) : Prop :=
  Sys2Proof.wellFormedWord (Sys2Proof.encode i) = true ∧
  (Sys2Proof.encode i).extractLsb' 3 29 = 0#29 ∧
  (Sys2Proof.encode i).extractLsb' 0 3 = i.op

theorem hdrEnc : Statement .hdrEnc := by unfold Statement; decide
theorem hdrDec : Statement .hdrDec := by unfold Statement; decide
theorem frmEnc : Statement .frmEnc := by unfold Statement; decide
theorem frmDec : Statement .frmDec := by unfold Statement; decide
theorem fipEnc : Statement .fipEnc := by unfold Statement; decide
theorem fipDec : Statement .fipDec := by unfold Statement; decide

end Sys2Proof.Laws.EncodedWord
end

