-- ==== Sys2Proof/Laws/Step.lean ====
section
/-! SUPPORT. What one step can do: the event it serves, and the cases of an engine cycle. -/

namespace Sys2Proof.Machine

theorem step_nil {s : State} (h : s.inputs = []) : step s = engineCycle s := by
  simp only [step, h]

theorem step_cons {s : State} {e : HostEvent} {rest : List HostEvent} (h : s.inputs = e :: rest) :
    step s = serve e { s with inputs := rest } := by
  simp only [step, h]

/-- Everything an engine cycle can do. -/
theorem engineCycle_cases (s : State) :
    (s.inReset = true ∧ engineCycle s = .next s) ∨
    (s.inReset = false ∧ ∃ l, s.engine = .idle l ∧ engineCycle s = .next s) ∨
    (s.inReset = false ∧ ∃ w n, s.engine = .busy w n ∧ n ≤ 1 ∧ engineCycle s = runWord w s) ∨
    (s.inReset = false ∧ ∃ w n, s.engine = .busy w (n + 2) ∧
      engineCycle s = .next { s with engine := .busy w (n + 1) }) := by
  unfold engineCycle
  cases s.inReset
  · right
    rcases s.engine with l | ⟨w, _ | _ | n⟩
    · exact .inl ⟨rfl, l, rfl, by simp⟩
    · exact .inr (.inl ⟨rfl, w, 0, rfl, by omega, by simp⟩)
    · exact .inr (.inl ⟨rfl, w, 1, rfl, by omega, by simp⟩)
    · exact .inr (.inr ⟨rfl, w, n, rfl, by simp⟩)
  · exact .inl ⟨rfl, by simp⟩

/-- The latched word selects a command, or completes with BAD_OP (R83, R88). -/
theorem runWord_cases (w : Word) (s : State) :
    (∃ i, decodeCmd w = .ok i ∧ runWord w s = exec i s) ∨
    (∃ e, decodeCmd w = .error e ∧ runWord w s = .next (s.complete .badOp)) := by
  unfold runWord
  cases h : decodeCmd w with
  | ok i => exact .inl ⟨i, rfl, rfl⟩
  | error e => exact .inr ⟨e, rfl, rfl⟩

/-! ### Runs -/

@[simp] theorem runSteps_zero (s : State) : runSteps 0 s = .next s := rfl

theorem runSteps_succ_of_next {s t : State} (h : step s = .next t) (k : Nat) :
    runSteps (k + 1) s = runSteps k t := by
  simp only [runSteps, h]

theorem runSteps_succ_of_refused {s : State} {r : Refusal} (h : step s = .refused r) (k : Nat) :
    runSteps (k + 1) s = .refused r := by
  simp only [runSteps, h]

/-- One more step of any core, by the outcome of its first. -/
theorem core_run_succ (M : Host.Core) (k : Nat) (s : M.State) (o : Host.Outcome M.State M.Fault M.Refusal)
    (h : M.step s = o) : M.run (k + 1) s = o.rec (fun t => M.run k t) (fun r => .fault r)
      (fun r => .refused r) := by
  subst h; rw [Host.Core.run]; cases M.step s <;> rfl

/-- `runSteps` is the run of the host's core. -/
theorem runSteps_eq_core_run (k : Nat) (s : State) : runSteps k s = Sys2Proof.core.run k s := by
  induction k generalizing s with
  | zero => rfl
  | succ k ih =>
    cases h : step s with
    | next t =>
      exact (runSteps_succ_of_next h k).trans ((ih t).trans (core_run_succ core k s (.next t) h).symm)
    | fault r => exact nomatch r
    | refused r =>
      exact (runSteps_succ_of_refused h k).trans (core_run_succ core k s (.refused r) h).symm

end Sys2Proof.Machine
end

