-- ==== Sys2Proof/Tests/Slice0.lean ====
section
/-! SUPPORT. Tests whose expected results stand in spec/95_test_vectors.md or in a rule that the test names, and, for every obligation with hypotheses, a witness that meets them. -/

namespace Sys2Proof.Tests

-- One declaration at a time: the many short kernel evaluations below would else each start a thread.
set_option Elab.async false

open Sys2Proof Sys2Proof.Machine

/-! ### Small states -/

/-- A buffer that holds a sequence from offset 0 on. -/
def holding (b : Bytes) : Memory :=
  Memory.putAll [] 0 b

/-- After reset, with WIRE holding `b` and WIRE_LEN its length. -/
def onWire (b : Bytes) : State :=
  { State.reset with wire := holding b, wireLen := BitVec.ofNat 17 b.length }

/-- After reset, with these host events to come. -/
def told (es : List HostEvent) : State :=
  { State.reset with inputs := es }

/-- After reset, BUSY with the word `w` latched and `n` cycles left. -/
def busyOn (w : Word) (n : Nat) : State :=
  { State.reset with engine := .busy w n }

/-- A field of the next state. -/
def after {α : Type} (o : Host.Outcome State Fault Refusal) (f : State → α) : Option α :=
  match o with
  | .next t    => some (f t)
  | .fault _   => none
  | .refused _ => none

/-- The refusal, where a step is refused. -/
def refusal (o : Host.Outcome State Fault Refusal) : Option Refusal :=
  match o with
  | .next _    => none
  | .fault _   => none
  | .refused r => some r

/-- A step that answers a next state, from one field of it. -/
theorem next_of_after {α : Type} {o : Host.Outcome State Fault Refusal} {f : State → α} {x : α}
    (h : after o f = some x) : ∃ t, o = .next t ∧ f t = x := by
  cases o with
  | next t => exact ⟨t, rfl, Option.some.inj h⟩
  | fault r => exact nomatch r
  | refused r => cases h

/-- The header registers of vector H4. -/
def hdrH4 : HdrRegs :=
  { rctl := 0x01, did := 0x030303, prio := 0x05, sid := 0x060606, typ := 0x02, fctl := 0x010203,
    seqid := 0x05, dfctl := 0x06, seqcnt := 0x0100, oxid := 0x03E8, rxid := 0x03E9,
    param := 0x00004E20 }

/-- The 24 header bytes of vector H3. -/
def wireH3 : Bytes :=
  [0x01, 0x03, 0x03, 0x03, 0x05, 0x06, 0x06, 0x06, 0x02, 0x01, 0x02, 0x03] ++
  [0x05, 0x06, 0x01, 0x00, 0x03, 0xe8, 0x03, 0xe9, 0x00, 0x00, 0x4e, 0x20]

/-- The 40 bytes of vector L1-1, F40. -/
def f40 : Bytes :=
  [0x00, 0x00, 0x00, 0x2e] ++ wireH3 ++
  [0x01, 0x02, 0x03, 0x00, 0x09, 0x4c, 0xbc, 0xe8, 0x42, 0x00, 0x00, 0x00]

/-- The Frame of vector L1-1. -/
def frameL11 : Frame :=
  { sof := 0x2e, eof := 0x42, payload := [0x01, 0x02, 0x03],
    hdr := some
      { rctl := 0x01, did := ⟨3, 3, 3⟩, prio := 5, sid := ⟨6, 6, 6⟩, typ := 2, fctl := ⟨1, 2, 3⟩,
        seqid := 5, dfctl := 6, seqcnt := 256, oxid := 1000, rxid := 1001, param := 20000 } }

/-- The 10 bytes of vector PE2. -/
def wirePE2 : Bytes :=
  [0x10, 0x00, 0xff, 0xf8, 0x00, 0xab, 0x12, 0x34, 0x80, 0x02]

/-- The FIP registers of vector PD15. -/
def fipPD15 : FipRegs :=
  { ver := 1, proto := 0xFFF8, sub := 0xAB, dll := 0x1234, fpma := true, spma := false,
    afl := false, sol := true, fcf := false }

/-- The 36 bytes of vector FE7, F36: the shortest frame. -/
def f36 : Bytes :=
  [0x00, 0x00, 0x00, 0x28] ++ List.replicate 24 0x00 ++
  [0xa3, 0xc1, 0xca, 0x20, 0x41, 0x00, 0x00, 0x00]

/-- The FipFrame of vector L1-2, and its 10 bytes. -/
def fipL12 : FipFrame :=
  { version := 1, proto := 1, subcode := 1, dll := 1, fpma := true, spma := true, afl := true,
    sol := true, fcf := true }

def wireL12 : Bytes :=
  [0x10, 0x00, 0x00, 0x01, 0x00, 0x01, 0x00, 0x01, 0xc0, 0x07]

/-- `onWire` is what its name says. -/
theorem onWire_holds (b : Bytes) (h : b.length < 2 ^ 17) : (onWire b).WireHolds b := by
  refine ⟨?_, fun i hi => ?_⟩
  · simp only [onWire, BitVec.toNat_ofNat]; exact Nat.mod_eq_of_lt h
  · simp only [onWire, holding, Memory.byteAt?_putAll]
    rw [if_pos (by omega), Nat.sub_zero]

/-- A read of WIRE in a state that holds `b` there answers `b`. -/
theorem memRead_onWire (b : Bytes) (h : b.length < 2 ^ 17) :
    ((onWire b).memRead .wire 0 (onWire b).wireLen.toNat).1 = b := by
  rw [(onWire_holds b h).1]
  exact congrArg Prod.fst (Memory.readAll_putAll [] 0 _ b)

/-! ### Well-formedness refuses the ill formed -/

/-- K1. -/
theorem test_word_op0_ill_formed : wellFormedWord 0x00000000#32 = false := by decide
/-- K2. -/
theorem test_word_op7_ill_formed : wellFormedWord 0x00000007#32 = false := by decide
/-- K3. -/
theorem test_word_reserved_ill_formed : wellFormedWord 0x00000009#32 = false := by decide
/-- R141: a Frame without a Header. -/
theorem test_frame_without_header_ill_formed :
    ({ frameL11 with hdr := none } : Frame).wellFormed = false := by decide
/-- R172: version 2. -/
theorem test_fip_version2_ill_formed : ({ fipL12 with version := 2 } : FipFrame).wellFormed = false := by
  decide
/-- K12: rd 0x00006. -/
theorem test_access_misaligned_ill_formed : (HostAccess.read 32 0x00006#18).wellFormed = false := by
  decide
/-- K12: a byte access. -/
theorem test_access_byte_ill_formed : (HostAccess.write 8 0x00010#18 0#32).wellFormed = false := by
  decide
/-- Offsets that do not rise. -/
theorem test_memory_unsorted_ill_formed : ¬ Memory.wf [(4, 0x01#8), (4, 0x02#8)] := by decide
/-- And a well-formed one of each is let through. -/
theorem test_well_formed_pass : wellFormedWord 0x00000003#32 = true ∧ frameL11.wellFormed = true ∧
    fipL12.wellFormed = true ∧ (HostAccess.write 32 0x00000#18 3#32).wellFormed = true ∧
    Memory.wf [(0, 0x01#8), (4, 0x02#8)] := by decide

/-! ### Decoding, each family's words written out bit by bit (R80, R81) -/

theorem test_decode_hdr_words :
    decodeCmd 0b00000000000000000000000000000001#32 = .ok .hdrEnc ∧
    decodeCmd 0b00000000000000000000000000000010#32 = .ok .hdrDec := ⟨rfl, rfl⟩
theorem test_decode_frm_words :
    decodeCmd 0b00000000000000000000000000000011#32 = .ok .frmEnc ∧
    decodeCmd 0b00000000000000000000000000000100#32 = .ok .frmDec := ⟨rfl, rfl⟩
theorem test_decode_fip_words :
    decodeCmd 0b00000000000000000000000000000101#32 = .ok .fipEnc ∧
    decodeCmd 0b00000000000000000000000000000110#32 = .ok .fipDec := ⟨rfl, rfl⟩
theorem test_decode_table_word : decodeTableWord 32 5 = some .fipEnc ∧
    decodeTableWord 32 0x80000003 = none := by decide

/-! ### The commands, against the vectors -/

/-- H3. -/
theorem test_hdrEnc_h3 :
    after (exec .hdrEnc { State.reset with hdr := hdrH4 })
      (fun t => (t.statusWord, t.wireLen.toNat, t.wire)) = some (0x02#32, 24, holding wireH3) := by
  decide +kernel
/-- H10: bytes from offset 24 on stay. -/
theorem test_hdrEnc_h10 :
    after (exec .hdrEnc (onWire (List.replicate 26 0x77#8))) (fun t => t.wire) =
      some (holding (List.replicate 24 0x00#8 ++ [0x77#8, 0x77#8])) := by decide +kernel
/-- H4. -/
theorem test_hdrDec_h4 :
    after (exec .hdrDec (onWire wireH3)) (fun t => (t.statusWord, t.hdr, t.frmHdrv)) =
      some (0x02#32, hdrH4, false) := by decide +kernel
/-- H6. -/
theorem test_hdrDec_h6 :
    after (exec .hdrDec (onWire (List.replicate 25 0xff#8))) (fun t => (t.statusWord, t.hdr)) =
      some (0x22#32, HdrRegs.reset) := by decide +kernel
/-- FE9, with L1-1's bytes: PAY[3] = ff is not read. -/
theorem test_frmEnc_fe9 :
    after (exec .frmEnc { State.reset with
      frmSof := 0x2e, frmEof := 0x42, frmHdrv := true, hdr := hdrH4, payLen := 3,
      pay := holding [0x01, 0x02, 0x03, 0xff] })
      (fun t => (t.statusWord, t.wireLen.toNat, t.wire)) = some (0x02#32, 40, holding f40) := by
  decide +kernel
/-- FE10. -/
theorem test_frmEnc_fe10 :
    after (exec .frmEnc (onWire f40)) (fun t => (t.statusWord, t.wireLen.toNat, t.wire)) =
      some (0x52#32, 40, holding f40) := by decide +kernel
/-- FD1. -/
theorem test_frmDec_fd1 :
    after (exec .frmDec (onWire f40)) (fun t => (t.statusWord, t.frmSof, t.frmEof, t.frmHdrv)) =
      some (0x02#32, 0x2e#8, 0x42#8, true) ∧
    after (exec .frmDec (onWire f40)) (fun t => (t.hdr, t.payLen.toNat, t.pay)) =
      some (hdrH4, 4, holding [0x01, 0x02, 0x03, 0x00]) := by
  decide +kernel
/-- FD15: INVALID_FRAME before INVALID_CRC. -/
theorem test_frmDec_fd15 :
    after (exec .frmDec (onWire ((f40.set 4 0x00#8).set 0 0x01#8)))
      (fun t => (t.statusWord, t.hdr, t.pay)) = some (0x32#32, HdrRegs.reset, []) := by
  decide +kernel
/-- PE2. -/
theorem test_fipEnc_pe2 :
    after (exec .fipEnc { State.reset with fip := fipPD15 })
      (fun t => (t.statusWord, t.wireLen.toNat, t.wire)) = some (0x02#32, 10, holding wirePE2) := by
  decide +kernel
/-- PE6. -/
theorem test_fipEnc_pe6 :
    after (exec .fipEnc { State.reset with fip := { fipPD15 with ver := 2 } })
      (fun t => (t.statusWord, t.wireLen.toNat, t.wire)) = some (0x62#32, 0, []) := by
  decide +kernel
/-- PD15, with an eleventh byte as in PD4. -/
theorem test_fipDec_pd15 :
    after (exec .fipDec (onWire (wirePE2 ++ [0xff#8]))) (fun t => (t.statusWord, t.fip)) =
      some (0x02#32, fipPD15) := by decide +kernel
/-- PD12: byte 8 = c1. -/
theorem test_fipDec_pd12 :
    after (exec .fipDec (onWire (wireL12.set 8 0xc1#8))) (fun t => (t.statusWord, t.fip)) =
      some (0x32#32, FipRegs.reset) := by decide +kernel

/-! ### Steps -/

/-- K5: the word that withFetchWord latches is the command the next step runs; here HDR.ENC. -/
theorem test_step_runs_hdrEnc :
    after (step (State.reset.withFetchWord 32 1)) (fun t => (t.statusWord, t.wireLen.toNat)) =
      some (0x02#32, 24) := by decide +kernel
/-- K3: HDR.ENC does not run. -/
theorem test_step_bad_op :
    after (step (State.reset.withFetchWord 32 9)) (fun t => (t.statusWord, t.wireLen.toNat)) =
      some (0x72#32, 0) := by decide +kernel
/-- A write of CMD: BUSY. -/
theorem test_step_cmd_busy :
    after (step (told [cmd .fipDec])) (fun t => t.statusWord) = some 0x01#32 := by decide +kernel
/-- K8. -/
theorem test_write_frmSof_k8 :
    after (step (told [wr .frmSof 0x12345678#32])) (fun t => t.readReg .frmSof) =
      some 0x00000078#32 := by decide +kernel
/-- K9. -/
theorem test_write_hdrDid_k9 :
    after (step (told [wr .hdrDid 0xFF123456#32])) (fun t => t.readReg .hdrDid) =
      some 0x00123456#32 := by decide +kernel
/-- PE8 and PE9: FIP_VER 0x11 stores 1, FIP_FLAGS 0xFFFFFFFF stores 0xC007. -/
theorem test_write_fip_pe8_pe9 :
    after (step (told [wr .fipVer 0x11#32])) (fun t => t.readReg .fipVer) = some 1#32 ∧
    after (step (told [wr .fipFlags 0xFFFFFFFF#32])) (fun t => t.readReg .fipFlags) =
      some 0xC007#32 := by decide +kernel
/-- K7. -/
theorem test_write_status_k7 :
    after (step { told [wr .status 0xFFFFFFFF#32] with engine := .idle (some .invalidCrc) })
      (fun t => t.statusWord) = some 0x42#32 := by decide +kernel
/-- K14 and K6: the first read of STATUS after reset, and a read of CMD. -/
theorem test_reads_k14_k6 :
    after (step (told [rd .status])) (fun t => t.replies) = some [⟨0x00004#18, 0#32⟩] ∧
    after (step (told [rd .cmd])) (fun t => t.replies) = some [⟨0x00000#18, 0#32⟩] := by
  decide +kernel
/-- K10: a second CMD write while BUSY. -/
theorem test_write_busy_k10 :
    refusal (step { busyOn 1#32 5 with inputs := [cmd .hdrEnc] }) =
      some (.writeWhileBusy 0x00000#18) := by decide +kernel
/-- K12: the gap 0x0001C, the offset 6, a byte access. -/
theorem test_refused_k12 :
    refusal (step (told [.access (.read 32 0x0001C#18)])) = some (.unmapped 0x0001C#18) ∧
    refusal (step (told [.access (.read 32 0x00006#18)])) = some (.misaligned 0x00006#18) ∧
    refusal (step (told [.access (.read 8 0x00010#18)])) = some (.accessNotWord 8) := by
  decide +kernel
/-- R230: an access in reset. -/
theorem test_refused_in_reset :
    refusal (step { told [rd .status] with inReset := true }) = some .accessDuringReset := by
  decide +kernel
/-- R26, R250: with three cycles left, a cycle leaves the engine BUSY. -/
theorem test_cycle_counts :
    after (step (busyOn 1#32 3)) (fun t => (t.engine, t.wireLen.toNat)) =
      some (.busy 1#32 2, 0) := by decide +kernel
/-- R63 on Program 2's line 11: wr WIRE+0, 0x0100002E. -/
theorem test_window_bytes : (State.reset.memWrite .wire 0 (be32 0x0100002E#32)).wire =
    holding [0x01, 0x00, 0x00, 0x2e] := by decide +kernel

/-! ### The parameters' bounds, at which the boundary witnesses stand -/

/-- A number within 17 bits as a 32-bit datum. -/
theorem toNat_word {n : Nat} (h : n < 2 ^ 17) : (BitVec.ofNat 32 n).toNat = n := by
  rw [BitVec.toNat_ofNat, Nat.mod_eq_of_lt]; omega

theorem wireMax_word : (BitVec.ofNat 32 Config.wireMax).toNat = Config.wireMax :=
  toNat_word (by have := Config.wireMax_le; omega)
theorem payMax_word : (BitVec.ofNat 32 Config.payMax).toNat = Config.payMax :=
  toNat_word (by have := Config.payMax_le; omega)
theorem wireMax_succ_word : (BitVec.ofNat 32 (Config.wireMax + 1)).toNat = Config.wireMax + 1 :=
  toNat_word (by have := Config.wireMax_le; omega)
theorem payMax_succ_word : (BitVec.ofNat 32 (Config.payMax + 1)).toNat = Config.payMax + 1 :=
  toNat_word (by have := Config.payMax_le; omega)

/-- The step that writes a window word. -/
theorem step_wrWindow (buf : Buffer) (k : Nat) (v : Word) (hk : k < buf.capacity) (h4 : k % 4 = 0) :
    step (told [wrWindow buf k v]) = .next (State.reset.memWrite buf k (be32 v)) := by
  obtain ⟨h1, h2⟩ := target?_window buf k hk h4
  have h : State.reset.checkAccess 32 (BitVec.ofNat 18 (buf.base + k)) = .ok (.window buf k) :=
    State.checkAccess_ok.2 ⟨rfl, rfl, h1, h2⟩
  rw [step_cons (s := told _) (e := wrWindow buf k v) (rest := []) rfl]
  show State.hostWrite State.reset 32 _ v = _
  simp only [State.hostWrite, h]
  rfl

/-! ### Witnesses: states and operands that meet the hypotheses of each obligation -/

theorem witness_ResetLeavesRegistersZero : ∃ (s : State) (rest : List HostEvent),
    s.inReset = true ∧ s.inputs = .resetInput false :: rest :=
  ⟨{ told [.resetInput false, rd .status] with inReset := true }, _, rfl, rfl⟩

theorem witness_ResetAbortsTheCommand : ∃ (s : State) (rest : List HostEvent),
    s.inputs = .resetInput true :: rest ∧ s.isBusy = true :=
  ⟨{ busyOn 3#32 1 with inputs := [.resetInput true], frmSof := 0x2e }, _, rfl, rfl⟩

theorem witness_AcceptanceSetsBusyAndLatchesTheWord :
    ∃ (s : State) (v : Word) (rest : List HostEvent),
      s.inReset = false ∧ s.isBusy = false ∧ s.NextWrite 0x00000#18 v rest :=
  ⟨told [cmd .frmEnc, rd .status], 3#32, _, rfl, rfl, rfl⟩

/-- Both numbers of cycles left, each with both kinds of cycle. -/
theorem witness_StepRunsTheLatchedCommand :
    (∃ (s : State) (w : Word) (n : Nat) (i : Instr), s.inReset = false ∧ s.engine = .busy w n ∧
      n = 1 ∧ decodeCmd w = .ok i ∧ s.inputs = []) ∧
    (∃ (s : State) (w : Word) (n : Nat) (i : Instr) (rest : List HostEvent), s.inReset = false ∧
      s.engine = .busy w n ∧ n = 0 ∧ decodeCmd w = .ok i ∧ s.inputs = .cycle :: rest) :=
  ⟨⟨busyOn 3#32 1, _, _, .frmEnc, rfl, rfl, rfl, rfl, rfl⟩,
   ⟨{ busyOn 6#32 0 with inputs := [.cycle, rd .status] }, _, _, .fipDec, _, rfl, rfl, rfl, rfl,
    rfl⟩⟩

theorem witness_CommandRunsToItsCompletion : ∃ (s : State) (w : Word),
    s.inReset = false ∧ s.isBusy = false ∧ s.NextWrite 0x00000#18 w [] :=
  ⟨told [cmd .hdrDec], 2#32, rfl, rfl, rfl⟩

/-- Host events of every kind to come, and none of the reset input; no events at all. -/
theorem witness_EveryAcceptedCommandCompletes :
    (∃ (s : State) (w : Word) (n : Nat), s.inReset = false ∧ s.engine = .busy w n ∧
      .resetInput true ∈ s.inputs) ∧
    (∃ (s : State) (w : Word) (n : Nat), s.inReset = false ∧ s.engine = .busy w n ∧
      s.inputs ≠ [] ∧ ∀ b, .resetInput b ∉ s.inputs) ∧
    (∃ (s : State) (w : Word) (n : Nat), s.inReset = false ∧ s.engine = .busy w n ∧
      s.inputs = [] ∧ ∀ b, .resetInput b ∉ s.inputs) :=
  ⟨⟨{ busyOn 4#32 7 with inputs := [.cycle, .resetInput true] }, _, _, rfl, rfl, by decide⟩,
   ⟨{ busyOn 4#32 7 with inputs := [rd .status, .cycle] }, _, _, rfl, rfl, by decide, by decide⟩,
   ⟨busyOn 4#32 0, _, _, rfl, rfl, rfl, by decide⟩⟩

/-- A poll of STATUS before any cycle has passed; and a poll and LAT cycles, the last event a cycle. -/
theorem witness_CommandRunsUnderTheWaitLoop :
    (∃ (s : State) (w : Word) (es rest : List HostEvent), s.inReset = false ∧ s.isBusy = false ∧
      s.NextWrite 0x00000#18 w (es ++ rest) ∧
      (∀ e ∈ es, e = .cycle ∨ ∃ a, e = .access (.read 32 a) ∧ Mapped a) ∧ es ≠ [] ∧
      es.count .cycle < Config.lat w (s.inputBytes w)) ∧
    (∃ (s : State) (w : Word) (es rest : List HostEvent), s.inReset = false ∧ s.isBusy = false ∧
      s.NextWrite 0x00000#18 w (es ++ rest) ∧
      (∀ e ∈ es, e = .cycle ∨ ∃ a, e = .access (.read 32 a) ∧ Mapped a) ∧ rd .status ∈ es ∧
      es.count .cycle = Config.lat w (s.inputBytes w) ∧ es.getLast? = some .cycle) := by
  have hr : ∃ a, rd .status = .access (.read 32 a) ∧ Mapped a := ⟨_, rfl, .inl ⟨.status, rfl⟩⟩
  have hl : 0 < Config.lat 3#32 (State.reset.inputBytes 3#32) := Nat.succ_pos _
  refine ⟨⟨told [cmd .frmEnc, rd .status], 3#32, [rd .status], [], rfl, rfl, rfl,
    fun e he => .inr ?_, List.cons_ne_nil _ _, hl⟩, ?_⟩
  · rw [List.mem_singleton.1 he]; exact hr
  · generalize hn : Config.lat 3#32 (State.reset.inputBytes 3#32) = n at hl
    obtain ⟨m, rfl⟩ : ∃ m, n = m + 1 := ⟨n - 1, by omega⟩
    refine ⟨told (cmd .frmEnc :: (rd .status :: List.replicate (m + 1) HostEvent.cycle) ++ [rd .status]),
      3#32, rd .status :: List.replicate (m + 1) HostEvent.cycle, [rd .status], rfl, rfl, rfl,
      fun e he => ?_, List.mem_cons_self, ?_, ?_⟩
    · rcases List.mem_cons.1 he with rfl | he
      · exact .inr hr
      · exact .inl (List.eq_of_mem_replicate he)
    · rw [List.count_cons_of_ne (by decide), List.count_replicate_self]; exact hn.symm
    · rw [List.replicate_succ', ← List.cons_append, List.getLast?_concat]

/-- The words K1 to K4 select no command: for this obligation's second part and the next one's. -/
theorem witness_EveryCommandCompletesWithOneStatus :
    ∀ w ∈ [0x00000000#32, 0x00000007#32, 0x00000009#32, 0x80000003#32], ∀ i, decodeCmd w ≠ .ok i := by
  intro w hw i e
  simp only [List.mem_cons, List.not_mem_nil, or_false] at hw
  rcases hw with rfl | rfl | rfl | rfl <;> exact nomatch congrArg Except.toOption e

theorem witness_FailedCommandChangesOnlyStatus :
    ∃ (i : Instr) (s t : State) (st : Status),
      exec i s = .next t ∧ t.engine = .idle (some st) ∧ st ≠ .ok :=
  ⟨.hdrDec, onWire (List.replicate 23 0x00#8), _, .lengthMismatch,
   execHdrDec_fail (by decide), rfl, by decide⟩

/-- Each of the three kinds of word, at both numbers of cycles left. -/
theorem witness_ReservedWordsCompleteWithBadOp :
    ∀ wn ∈ [(0x00000009#32, 0), (0x00000000#32, 1), (0x00000007#32, 1)],
      ((wn.1.extractLsb' 3 29 ≠ 0#29 ∨ wn.1.extractLsb' 0 3 = 0#3 ∨ wn.1.extractLsb' 0 3 = 7#3) ∧
        wn.2 ≤ 1) ∧
      ∃ s : State, s.inReset = false ∧ s.engine = .busy wn.1 wn.2 ∧ s.inputs = [] :=
  fun wn h => ⟨by revert wn; decide, busyOn wn.1 wn.2, rfl, rfl, rfl⟩

theorem witness_StatusFieldsAreExclusive :
    State.reset.statusWord.getLsbD 1 = false ∧ (busyOn 1#32 1).statusWord.getLsbD 1 = false := by
  decide

/-- An acceptance, a completion and a reset each change STATUS. -/
theorem witness_OnlyThreeEventsChangeStatus :
    ∀ s ∈ [told [cmd .hdrEnc], busyOn 0#32 1, { busyOn 1#32 4 with inputs := [.resetInput true] }],
      ∃ t, step s = .next t ∧ t.statusWord ≠ s.statusWord := by
  have h1 : after (step (told [cmd .hdrEnc])) (fun t => t.statusWord) = some 1#32 := by
    decide +kernel
  have h2 : after (step (busyOn 0#32 1)) (fun t => t.statusWord) = some 0x72#32 := by
    decide +kernel
  have h3 : after (step { busyOn 1#32 4 with inputs := [.resetInput true] })
      (fun t => t.statusWord) = some 0#32 := by decide +kernel
  intro s hs
  simp only [List.mem_cons, List.not_mem_nil, or_false] at hs
  rcases hs with rfl | rfl | rfl
  · obtain ⟨t, e, h⟩ := next_of_after h1; exact ⟨t, e, by rw [h]; decide⟩
  · obtain ⟨t, e, h⟩ := next_of_after h2; exact ⟨t, e, by rw [h]; decide⟩
  · obtain ⟨t, e, h⟩ := next_of_after h3; exact ⟨t, e, by rw [h]; decide⟩

/-- A host write, a completed command and a reset each change a register. -/
theorem witness_RegistersChangeOnlyByTheirWriters :
    (∃ t, step (told [wr .frmSof 0x2e#32]) = .next t ∧
      t.readReg .frmSof ≠ (told [wr .frmSof 0x2e#32]).readReg .frmSof) ∧
    (∃ t, step (busyOn 1#32 1) = .next t ∧
      t.readReg .wireLen ≠ (busyOn 1#32 1).readReg .wireLen) ∧
    (∃ t, step { onWire f40 with inputs := [.resetInput true] } = .next t ∧
      t.readReg .wireLen ≠ (onWire f40).readReg .wireLen) := by
  have h1 : after (step (told [wr .frmSof 0x2e#32])) (fun t => t.readReg .frmSof) = some 0x2e#32 := by
    decide +kernel
  have h2 : after (step (busyOn 1#32 1)) (fun t => t.readReg .wireLen) = some 24#32 := by
    decide +kernel
  have h3 : after (step { onWire f40 with inputs := [.resetInput true] })
      (fun t => t.readReg .wireLen) = some 0#32 := by decide +kernel
  refine ⟨?_, ?_, ?_⟩
  · obtain ⟨t, e, h⟩ := next_of_after h1; exact ⟨t, e, by rw [h]; decide⟩
  · obtain ⟨t, e, h⟩ := next_of_after h2; exact ⟨t, e, by rw [h]; decide⟩
  · obtain ⟨t, e, h⟩ := next_of_after h3; exact ⟨t, e, by rw [h]; decide⟩

/-- A byte of each buffer changes by a host write of its window, by a command, and by a reset. -/
theorem witness_BufferBytesChangeOnlyByTheirWriters :
    (∃ t, step (told [wrWindow .wire 0 0x01020304#32]) = .next t ∧
      t.wire.byteAt? 3 ≠ (told [wrWindow .wire 0 0x01020304#32]).wire.byteAt? 3) ∧
    (∃ t, step (busyOn 1#32 1) = .next t ∧
      t.wire.byteAt? 23 ≠ (busyOn 1#32 1).wire.byteAt? 23) ∧
    (∃ t, step { onWire f40 with inputs := [.resetInput true] } = .next t ∧
      t.wire.byteAt? 0 ≠ (onWire f40).wire.byteAt? 0) ∧
    (∃ t, step (told [wrWindow .pay 0 0x01020304#32]) = .next t ∧
      t.pay.byteAt? 0 ≠ (told [wrWindow .pay 0 0x01020304#32]).pay.byteAt? 0) ∧
    (∃ t, step { onWire f40 with engine := .busy 4#32 1 } = .next t ∧
      t.pay.byteAt? 3 ≠ (onWire f40).pay.byteAt? 3) ∧
    (∃ t, step { told [.resetInput true] with pay := holding [0x05#8] } = .next t ∧
      t.pay.byteAt? 0 ≠ (holding [0x05#8]).byteAt? 0) := by
  have hp := Config.payMax_ge
  have h2 : after (step (busyOn 1#32 1)) (fun t => t.wire.byteAt? 23) = some (some 0#8) := by
    decide +kernel
  have h5 : after (step { onWire f40 with engine := .busy 4#32 1 }) (fun t => t.pay.byteAt? 3) =
      some (some 0#8) := by decide +kernel
  refine ⟨⟨_, step_wrWindow .wire 0 _ ?_ rfl, by decide⟩, ?_, ⟨_, rfl, by decide⟩,
    ⟨_, step_wrWindow .pay 0 _ ?_ rfl, by decide⟩, ?_, ⟨_, rfl, by decide⟩⟩
  · show 0 < Config.wireMax; unfold Config.wireMax; omega
  · obtain ⟨t, e, h⟩ := next_of_after h2; exact ⟨t, e, by rw [h]; decide⟩
  · show 0 < Config.payMax; omega
  · obtain ⟨t, e, h⟩ := next_of_after h5; exact ⟨t, e, by rw [h]; decide⟩

theorem witness_HdrDecReadsTheHeaderBytes :
    (onWire wireH3).wireLen.toNat = 24 ∧ (onWire (List.replicate 25 0#8)).wireLen.toNat ≠ 24 ∧
    State.reset.wireLen.toNat ≠ 24 := by decide

/-- With a Header at PAY_LEN 0 and at PAY_MAX; without one. -/
theorem witness_FrmEncWritesTheFrameBytes :
    (∃ s : State, s.frmHdrv = true ∧ s.payLen.toNat = 0 ∧ s.payLen.toNat ≤ Config.payMax) ∧
    (∃ s : State, s.frmHdrv = true ∧ s.payLen.toNat = Config.payMax) ∧
    State.reset.frmHdrv = false := by
  refine ⟨⟨{ State.reset with frmHdrv := true }, rfl, rfl, Nat.zero_le _⟩,
    ⟨{ State.reset with frmHdrv := true, payLen := BitVec.ofNat 17 Config.payMax }, rfl, ?_⟩, rfl⟩
  show (BitVec.ofNat 17 Config.payMax).toNat = _
  rw [BitVec.toNat_ofNat, Nat.mod_eq_of_lt]
  have := Config.payMax_le; omega

/-- States whose WIRE reads as F36, the shortest frame, and as F40: each meets the conditions of a valid frame. -/
theorem witness_FrmDecCommitsAValidFrame : ∀ f ∈ [f36, f40], ∃ s : State,
    (s.memRead .wire 0 s.wireLen.toNat).1 = f ∧ 36 ≤ f.length ∧ ¬ FrameFramingBad f ∧
    crc32 (slice f 4 (f.length - 8)) = wordAt f (f.length - 8) := by
  intro f hf
  have h : f.length < 2 ^ 17 ∧ 36 ≤ f.length ∧ ¬ FrameFramingBad f ∧
      crc32 (slice f 4 (f.length - 8)) = wordAt f (f.length - 8) := by
    unfold FrameFramingBad; revert f; decide +kernel
  exact ⟨onWire f, memRead_onWire f h.1, h.2⟩

/-- FD4 and FD3; FD5, FD8, FD9 and FD10; F36 and F40 with the first bit of the CRC region or the last bit of the stored CRC flipped (FD11, FD14). -/
theorem witness_FrmDecFailuresInTheirOrder :
    (∀ f ∈ [[], f36.take 35], ∃ s : State,
      (s.memRead .wire 0 s.wireLen.toNat).1 = f ∧ f.length < 36) ∧
    (∀ f ∈ [f36 ++ [0x00], f36.set 35 0x01, f40.set 0 0x01, f40.set 37 0x01, f40.set 39 0x80],
      ∃ s : State, (s.memRead .wire 0 s.wireLen.toNat).1 = f ∧ 36 ≤ f.length ∧
        FrameFramingBad f) ∧
    (∀ f ∈ [flipBit f36 4 0, flipBit f40 4 0, flipBit f40 35 0], ∃ s : State,
      (s.memRead .wire 0 s.wireLen.toNat).1 = f ∧ 36 ≤ f.length ∧ ¬ FrameFramingBad f ∧
      crc32 (slice f 4 (f.length - 8)) ≠ wordAt f (f.length - 8)) := by
  refine ⟨fun f hf => ?_, fun f hf => ?_, fun f hf => ?_⟩
  · have h : f.length < 36 := by revert f; decide +kernel
    exact ⟨onWire f, memRead_onWire f (by omega), h⟩
  · have h : f.length < 2 ^ 17 ∧ 36 ≤ f.length ∧ FrameFramingBad f := by
      unfold FrameFramingBad; revert f; decide +kernel
    exact ⟨onWire f, memRead_onWire f h.1, h.2⟩
  · have h : f.length < 2 ^ 17 ∧ 36 ≤ f.length ∧ ¬ FrameFramingBad f ∧
        crc32 (slice f 4 (f.length - 8)) ≠ wordAt f (f.length - 8) := by
      unfold FrameFramingBad; revert f; decide +kernel
    exact ⟨onWire f, memRead_onWire f h.1, h.2⟩

/-- PE2; PE5 and PE7. -/
theorem witness_FipEncWritesTheTenBytes :
    fipPD15.ver = 1#4 ∧ FipRegs.reset.ver ≠ 1#4 ∧ ({ fipPD15 with ver := 15 } : FipRegs).ver ≠ 1#4 := by
  decide

/-- PD2; PD1 at exactly ten bytes; PD5 and PD14. -/
theorem witness_FipDecReadsTheTenBytes :
    (onWire (wireL12.take 9)).wireLen.toNat < 10 ∧ 10 ≤ (onWire wireL12).wireLen.toNat ∧
    ¬ (byteAt wireL12 0 >>> 4 ≠ 1#8 ∨
      ∃ k, k < 10 ∧ byteAt wireL12 k &&& byteAt fipReservedMask k ≠ 0#8) ∧
    byteAt (wireL12.set 0 0x00#8) 0 >>> 4 ≠ 1#8 ∧
    byteAt (wireL12.set 9 0x87#8) 9 &&& byteAt fipReservedMask 9 ≠ 0#8 := by
  decide +kernel

theorem witness_HeaderRoundTrip : wireH3.length = 24 := by decide

/-- A payload of 3 bytes, and one of 4. -/
theorem witness_FrameRoundTrip : frameL11.hdr.isSome = true ∧ frameL11.payload.length = 3 ∧
    ({ frameL11 with payload := [1, 2, 3, 4] } : Frame).hdr.isSome = true := by decide

/-- As the one before, on both sides of the equivalence. -/
theorem witness_PayloadRoundTripsIffAligned :
    ∃ f g : Frame, f.hdr.isSome = true ∧ f.payload.length % 4 ≠ 0 ∧ g.hdr.isSome = true ∧
      g.payload.length % 4 = 0 :=
  ⟨frameL11, { frameL11 with payload := [] }, by decide⟩

/-- L1-2, and version 0. -/
theorem witness_FipRoundTrip : fipL12.version = 1#4 ∧ wireL12.length = 10 ∧
    (fipDecode wireL12).toOption = some fipL12 ∧
    ({ fipL12 with version := 0 } : FipFrame).version ≠ 1#4 := by decide +kernel

/-- L1-1's Frame encodes to F40. -/
theorem frmEncode_frameL11 : frmEncode frameL11 = .ok f40 := by
  have h : (frmEncode frameL11).toOption = some f40 := by decide +kernel
  cases e : frmEncode frameL11 with
  | ok b => rw [e] at h; exact congrArg _ (Option.some.inj h)
  | error _ => rw [e] at h; cases h

/-- The first bit of the header and the last bit of the stored CRC. -/
theorem witness_SingleBitFlipGivesInvalidCrc :
    ∀ kj ∈ [(4, 0), (35, 7)], ∃ (f : Frame) (h : Header) (b : Bytes) (s : State),
      f.hdr = some h ∧ frmEncode f = .ok b ∧ 4 ≤ kj.1 ∧ kj.1 < b.length - 4 ∧ kj.2 < 8 ∧
      s.WireHolds (flipBit b kj.1 kj.2) := by
  intro kj h
  have hl : (flipBit f40 kj.1 kj.2).length < 2 ^ 17 := by simp only [flipBit, List.length_set]; decide
  refine ⟨frameL11, _, f40, onWire (flipBit f40 kj.1 kj.2), rfl, frmEncode_frameL11, ?_, ?_, ?_,
    onWire_holds _ hl⟩ <;> revert kj <;> decide

/-- The first and the last byte of each reserved group. -/
theorem witness_NonZeroReservedFrameByteIsRejected :
    ∀ k ∈ [0, 2, 37, 39], ∃ (f : Frame) (h : Header) (b : Bytes) (v : Byte) (s : State),
      f.hdr = some h ∧ frmEncode f = .ok b ∧ (k < 3 ∨ (b.length - 3 ≤ k ∧ k < b.length)) ∧
      v ≠ 0#8 ∧ s.WireHolds (b.set k v) := by
  intro k h
  have hl : (f40.set k 0x80#8).length < 2 ^ 17 := by rw [List.length_set]; decide
  refine ⟨frameL11, _, f40, 0x80#8, onWire (f40.set k 0x80#8), rfl, frmEncode_frameL11, ?_, by decide,
    onWire_holds _ hl⟩
  revert k; decide

theorem witness_SofAndEofAreOpaque : ∃ (f : Frame) (h : Header) (b : Bytes),
    f.hdr = some h ∧ frmEncode f = .ok b :=
  ⟨frameL11, _, f40, rfl, frmEncode_frameL11⟩

/-- The first and the last reserved bit of the table. -/
theorem witness_AnyReservedFipBitIsRejected :
    ∀ kj ∈ [(0, 0), (9, 7)], ∃ (b : Bytes) (f : FipFrame) (s : State), b.length = 10 ∧
      fipDecode b = .ok f ∧ kj.1 < 10 ∧ kj.2 < 8 ∧
      (byteAt fipReservedMask kj.1).getLsbD kj.2 = true ∧ s.WireHolds (flipBit b kj.1 kj.2) := by
  intro kj h
  have hl : (flipBit wireL12 kj.1 kj.2).length < 2 ^ 17 := by
    simp only [flipBit, List.length_set]; decide
  refine ⟨wireL12, fipL12, onWire (flipBit wireL12 kj.1 kj.2), by decide, ?_, ?_, ?_, ?_,
    onWire_holds _ hl⟩
  · exact if_neg (by decide) |>.trans (if_neg (by decide))
  all_goals revert kj; decide

theorem witness_CrcDetectsAnySingleBitError :
    ∀ kj ∈ [(0, 0), (39, 7)], kj.1 < f40.length ∧ kj.2 < 8 := by decide

/-- Two PAY buffers that agree below PAY_LEN = 3 and differ at offset 3. -/
theorem witness_FrmEncIgnoresBytesPastPayLen : ∃ (s : State) (m : Memory),
    (∀ k, k < s.payLen.toNat → m.byteAt? k = s.pay.byteAt? k) ∧ m ≠ s.pay ∧ s.payLen.toNat = 3 :=
  ⟨{ State.reset with payLen := 3, pay := holding [1, 2, 3, 4] }, holding [1, 2, 3, 0xff], by decide⟩

/-- The same for WIRE: below WIRE_LEN = 9, and below 10 with WIRE_LEN 10 and 12. -/
theorem witness_DecodesIgnoreBytesPastWireLen :
    (∃ (i : Instr) (s : State) (m : Memory), i ∈ [Instr.hdrDec, .frmDec, .fipDec] ∧
      (∀ k, k < s.wireLen.toNat → m.byteAt? k = s.wire.byteAt? k) ∧ m ≠ s.wire) ∧
    (∃ (s : State) (m : Memory) (n : BitVec 17), 10 ≤ s.wireLen.toNat ∧ 10 ≤ n.toNat ∧
      (∀ k, k < 10 → m.byteAt? k = s.wire.byteAt? k) ∧ m ≠ s.wire) :=
  ⟨⟨.frmDec, { onWire wireL12 with wireLen := 9 }, holding (wireL12.set 9 0xff#8), by decide⟩,
   ⟨onWire wireL12, holding (wireL12 ++ [0xff#8, 0xff#8]), 12, by decide⟩⟩

theorem witness_FieldWriteKeepsTheFieldBits :
    ∃ (s : State) (r : Reg) (v : Word) (rest : List HostEvent),
      r ∉ [Reg.cmd, .status, .wireLen, .payLen] ∧ s.inReset = false ∧ s.isBusy = false ∧
      s.NextWrite r.offset v rest :=
  ⟨told [wr .fipFlags 0xFFFFFFFF#32, rd .fipFlags], .fipFlags, _, _, by decide, rfl, rfl, rfl⟩

/-- Each of the four clauses at its bound: the capacity, and the capacity plus 1. -/
theorem witness_LengthWritesWithinCapacity :
    (∃ (s : State) (v : Word) (rest : List HostEvent), s.inReset = false ∧ s.isBusy = false ∧
      s.NextWrite 0x00008#18 v rest ∧ v.toNat = Config.wireMax) ∧
    (∃ (s : State) (v : Word) (rest : List HostEvent), s.inReset = false ∧ s.isBusy = false ∧
      s.NextWrite 0x00008#18 v rest ∧ v.toNat = Config.wireMax + 1) ∧
    (∃ (s : State) (v : Word) (rest : List HostEvent), s.inReset = false ∧ s.isBusy = false ∧
      s.NextWrite 0x0000C#18 v rest ∧ v.toNat = Config.payMax) ∧
    (∃ (s : State) (v : Word) (rest : List HostEvent), s.inReset = false ∧ s.isBusy = false ∧
      s.NextWrite 0x0000C#18 v rest ∧ v.toNat = Config.payMax + 1) :=
  ⟨⟨told [wr .wireLen _], _, [], rfl, rfl, rfl, wireMax_word⟩,
   ⟨told [wr .wireLen _], _, [], rfl, rfl, rfl, wireMax_succ_word⟩,
   ⟨told [wr .payLen _], _, [], rfl, rfl, rfl, payMax_word⟩,
   ⟨told [wr .payLen _], _, [], rfl, rfl, rfl, payMax_succ_word⟩⟩

theorem witness_StatusWriteIgnoredAndCmdReadsZero :
    (∃ (s : State) (v : Word) (rest : List HostEvent), s.inReset = false ∧ s.isBusy = false ∧
      s.NextWrite 0x00004#18 v rest) ∧
    (∃ (s : State) (rest : List HostEvent), s.inReset = false ∧ s.isBusy = true ∧
      s.NextRead 0x00000#18 rest) :=
  ⟨⟨told [wr .status 0xFFFFFFFF#32], _, _, rfl, rfl, rfl⟩,
   ⟨{ busyOn 3#32 2 with inputs := [rd .cmd] }, _, rfl, rfl, rfl⟩⟩

theorem witness_HostReadReturnsTheRegister :
    (∃ (s : State) (r : Reg) (rest : List HostEvent), s.inReset = false ∧ s.isBusy = false ∧
      s.NextRead r.offset rest) ∧
    (∃ (s t : State) (bits : Nat) (a : Addr) (rest : List HostEvent),
      s.inputs = .access (.read bits a) :: rest ∧ step s = .next t) := by
  refine ⟨⟨{ told [rd .hdrDid] with hdr := hdrH4 }, .hdrDid, _, rfl, rfl, rfl⟩, ?_⟩
  have h : after (step (told [rd .status])) (fun t => t.statusWord) = some 0#32 := by
    decide +kernel
  obtain ⟨t, e, -⟩ := next_of_after h
  exact ⟨_, t, _, _, _, rfl, e⟩

/-- Both buffers, at the first and at the last word of each: a write, and a read of written bytes. -/
theorem witness_WindowWordLanes : ∀ buf : Buffer, ∀ k ∈ [0, buf.capacity - 4],
    (∃ base cap : Nat, (buf = .wire ∧ base = 0x10000 ∧ cap = Config.wireMax) ∨
      (buf = .pay ∧ base = 0x20000 ∧ cap = Config.payMax)) ∧
    k % 4 = 0 ∧ k < buf.capacity ∧
    (∃ (s : State) (v : Word) (rest : List HostEvent), s.inReset = false ∧ s.isBusy = false ∧
      s.NextWrite (BitVec.ofNat 18 (buf.base + k)) v rest) ∧
    (∃ (s : State) (b0 b1 b2 b3 : Byte) (rest : List HostEvent), s.inReset = false ∧
      s.isBusy = false ∧ s.NextRead (BitVec.ofNat 18 (buf.base + k)) rest ∧
      (s.buf buf).byteAt? k = some b0 ∧ (s.buf buf).byteAt? (k + 1) = some b1 ∧
      (s.buf buf).byteAt? (k + 2) = some b2 ∧ (s.buf buf).byteAt? (k + 3) = some b3) := by
  intro buf k hk
  have h1 := Config.payMax_ge
  have h2 := Config.payMax_mod
  have hc : 4 ≤ buf.capacity ∧ buf.capacity % 4 = 0 := by
    cases buf
    · show 4 ≤ Config.wireMax ∧ Config.wireMax % 4 = 0
      unfold Config.wireMax; omega
    · exact ⟨h1, h2⟩
  have hk' : k % 4 = 0 ∧ k < buf.capacity := by
    simp only [List.mem_cons, List.not_mem_nil, or_false] at hk
    omega
  have hb : ((told [rdWindow buf k]).memWrite buf k [1, 2, 3, 4]).buf buf =
      Memory.putAll [] k [1, 2, 3, 4] := by cases buf <;> rfl
  refine ⟨?_, hk'.1, hk'.2, ⟨told [wrWindow buf k 0x01020304#32], _, _, rfl, rfl, rfl⟩,
    (told [rdWindow buf k]).memWrite buf k [1, 2, 3, 4], 1, 2, 3, 4, [], ?_, ?_, ?_, ?_⟩
  · cases buf
    · exact ⟨_, _, .inl ⟨rfl, rfl, rfl⟩⟩
    · exact ⟨_, _, .inr ⟨rfl, rfl, rfl⟩⟩
  · cases buf <;> rfl
  · cases buf <;> rfl
  · cases buf <;> rfl
  · rw [hb]
    refine ⟨?_, ?_, ?_, ?_⟩ <;> rw [Memory.byteAt?_putAll] <;> simp

/-- Program 3's read of WIRE+8 after FIP.ENC: bytes 8 and 9 written, bytes 10 and 11 not; and a word of PAY with nothing written. -/
theorem witness_WindowReadsDrawUnwrittenBytes :
    (∃ (s : State) (rest : List HostEvent), 8 % 4 = 0 ∧ 8 < Config.wireMax ∧ s.inReset = false ∧
      s.isBusy = false ∧ s.NextRead (BitVec.ofNat 18 (0x10000 + 8)) rest ∧
      s.wire.byteAt? 9 = some 0x07#8 ∧ s.wire.byteAt? 10 = none) ∧
    (∃ (s : State) (rest : List HostEvent), 0 % 4 = 0 ∧ 0 < Config.payMax ∧ s.inReset = false ∧
      s.isBusy = false ∧ s.NextRead (BitVec.ofNat 18 (0x20000 + 0)) rest ∧
      s.pay.byteAt? 0 = none) := by
  have h := Config.payMax_ge
  have h' := Config.wireMax_eq
  exact ⟨⟨{ onWire wireL12 with inputs := [rdWindow .wire 8] }, [], rfl, by omega, rfl, rfl, rfl,
    by decide, by decide⟩, ⟨told [rdWindow .pay 0], [], rfl, by omega, rfl, rfl, rfl, rfl⟩⟩

/-- STATUS, CMD, another register and a window word, each read while BUSY. -/
theorem witness_BusyReadsSayNothing :
    ∀ a ∈ [0x00004#18, 0x00000#18, 0x0000C#18, 0x20000#18], Mapped a ∧
      ∃ (s : State) (rest : List HostEvent), s.inReset = false ∧ s.isBusy = true ∧
        s.NextRead a rest := by
  intro a h
  refine ⟨?_, { busyOn 3#32 2 with inputs := [.access (.read 32 a)] }, [], rfl, rfl, rfl⟩
  have hp := Config.payMax_ge
  simp only [List.mem_cons, List.not_mem_nil, or_false] at h
  rcases h with rfl | rfl | rfl | rfl
  · exact .inl ⟨.status, rfl⟩
  · exact .inl ⟨.cmd, rfl⟩
  · exact .inl ⟨.payLen, rfl⟩
  · exact .inr ⟨by decide, .inr ⟨by decide, by show 0x20000 < 0x20000 + Config.payMax; omega⟩⟩

theorem witness_BusyWritesAreRefused :
    ∃ (s : State) (bits : Nat) (a : Addr) (v : Word) (rest : List HostEvent),
      s.isBusy = true ∧ s.inputs = .access (.write bits a v) :: rest :=
  ⟨{ busyOn 3#32 2 with inputs := [wr .frmSof 0x2e#32] }, _, _, _, _, rfl, rfl⟩

/-- Accesses within the contract at the first and the last word of each window, accesses outside it (the word after the PAY window, a byte access), and the two kinds of step without an access. -/
theorem witness_RefusedExactlyOutsideTheContract :
    (∀ a ∈ [0x10000, 0x10000 + (Config.wireMax - 4), 0x20000, 0x20000 + (Config.payMax - 4)],
      ∃ (s : State) (rest : List HostEvent),
        s.inputs = .access (.read 32 (BitVec.ofNat 18 a)) :: rest ∧
        s.InContract (.read 32 (BitVec.ofNat 18 a))) ∧
    (∀ acc ∈ [HostAccess.read 32 (BitVec.ofNat 18 (0x20000 + Config.payMax)),
        .read 8 0x00010#18], ∃ (s : State) (rest : List HostEvent),
      s.inputs = .access acc :: rest ∧ ¬ s.InContract acc) ∧
    (∃ s : State, (∀ acc rest, s.inputs ≠ .access acc :: rest) ∧ s.inputs = []) ∧
    (∃ s : State, (∀ acc rest, s.inputs ≠ .access acc :: rest) ∧ s.inputs ≠ []) := by
  have h1 := Config.payMax_ge
  have h2 := Config.payMax_le
  have h3 := Config.payMax_mod
  have h4 := Config.wireMax_eq
  have e : ∀ a, a < 2 ^ 18 → (BitVec.ofNat 18 a).toNat = a := fun a h => by
    rw [BitVec.toNat_ofNat, Nat.mod_eq_of_lt h]
  refine ⟨fun a ha => ⟨told [.access (.read 32 (BitVec.ofNat 18 a))], [], rfl, rfl, rfl, .inr ?_⟩,
    fun acc ha => ⟨told [.access acc], [], rfl, ?_⟩, ⟨State.reset, ⟨fun _ _ => nofun, rfl⟩⟩,
    ⟨told [.resetInput true], ⟨fun _ _ => nofun, by decide⟩⟩⟩
  · simp only [List.mem_cons, List.not_mem_nil, or_false] at ha
    rw [e a (by omega)]; omega
  · simp only [List.mem_cons, List.not_mem_nil, or_false] at ha
    rcases ha with rfl | rfl
    · rintro ⟨-, -, ⟨r, hr⟩ | ⟨-, h⟩⟩
      · have := (Reg.offset_lt r).2
        rw [hr, e _ (by omega)] at this; omega
      · rw [e _ (by omega)] at h; omega
    · exact fun h => absurd h.2.1 (by decide)

/-- A state that meets the invariant, and a step from it that answers a next state. -/
theorem witness_InvariantKeptByEveryStep : ∃ s t : State, s.Inv ∧ step s = .next t := by
  refine ⟨busyOn 1#32 1, ?_⟩
  have h : after (step (busyOn 1#32 1)) (fun t => t.wireLen.toNat) = some 24 := by decide +kernel
  obtain ⟨t, e, -⟩ := next_of_after h
  exact ⟨t, ⟨Nat.zero_le _, Nat.zero_le _, .nil _, .nil _, fun h => by cases h⟩, e⟩

end Sys2Proof.Tests
end

section
/-! PROOFS. How a command ends, what a host write does, and everything one step can do. -/

namespace Sys2Proof.Machine

/-! ### How a command ends -/

/-- A completion that is not OK: nothing but STATUS, the free values taken and CRC_ACC is another (R203, log 6). -/
def FailedFrom (s t : State) : Prop :=
  ∃ st d c, st ≠ .ok ∧ t = { s with engine := .idle (some st), draws := d, crcAcc := c }

/-- A completion of `i` that is OK: only an encode writes WIRE, and only FRM.DEC writes PAY (R124, R146, R157, R174). -/
structure SucceededFrom (i : Instr) (s t : State) : Prop where
  engine : t.engine = .idle (some .ok)
  wire   : i ∉ [Instr.hdrEnc, .frmEnc, .fipEnc] → t.wire = s.wire
  pay    : i ≠ .frmDec → t.pay = s.pay

theorem FailedFrom.engine {s t : State} (h : FailedFrom s t) :
    ∃ st, t.engine = .idle (some st) := by
  obtain ⟨st, _, _, -, rfl⟩ := h
  exact ⟨st, rfl⟩

theorem FailedFrom.wire {s t : State} (h : FailedFrom s t) : t.wire = s.wire := by
  obtain ⟨_, _, _, -, rfl⟩ := h
  rfl

theorem FailedFrom.pay {s t : State} (h : FailedFrom s t) : t.pay = s.pay := by
  obtain ⟨_, _, _, -, rfl⟩ := h
  rfl

theorem State.complete_failedFrom (s : State) {st : Status} (h : st ≠ .ok) :
    FailedFrom s (s.complete st) :=
  ⟨st, s.draws, s.crcAcc, h, rfl⟩

theorem execHdrEnc_ends (s : State) :
    ∃ t, execHdrEnc s = .next t ∧ (FailedFrom s t ∨ SucceededFrom .hdrEnc s t) := by
  refine ⟨((s.memWrite .wire 0 (hdrEncode s.readHeader)).setWireLen 24).complete .ok, rfl, .inr ?_⟩
  exact ⟨by simp, fun hi => absurd (by decide) hi, fun _ => by simp⟩

theorem execHdrDec_ends (s : State) :
    ∃ t, execHdrDec s = .next t ∧ (FailedFrom s t ∨ SucceededFrom .hdrDec s t) := by
  by_cases h : s.wireLen.toNat = 24
  · obtain ⟨hd, -, e⟩ := execHdrDec_ok h
    exact ⟨_, e, .inr ⟨rfl, fun _ => rfl, fun _ => rfl⟩⟩
  · exact ⟨_, execHdrDec_fail h, .inl (State.complete_failedFrom s nofun)⟩

theorem execFrmEnc_ends (s : State) :
    ∃ t, execFrmEnc s = .next t ∧ (FailedFrom s t ∨ SucceededFrom .frmEnc s t) := by
  cases h : s.frmHdrv with
  | true =>
    obtain ⟨out, -, -, e⟩ := execFrmEnc_ok h
    exact ⟨_, e, .inr ⟨rfl, fun hi => absurd (by decide) hi, fun _ => rfl⟩⟩
  | false => exact ⟨_, execFrmEnc_fail h, .inl ⟨.missingHeader, _, _, nofun, rfl⟩⟩

theorem execFrmDec_ends (s : State) :
    ∃ t, execFrmDec s = .next t ∧ (FailedFrom s t ∨ SucceededFrom .frmDec s t) := by
  rcases execFrmDec_cases s with ⟨st, hc, -, e⟩ | ⟨-, -, e⟩ | ⟨-, f, hd, -, -, -, e⟩
  · have hst : st ≠ .ok := by
      rcases frmCheck_some hc with ⟨-, rfl⟩ | ⟨-, rfl⟩ <;> nofun
    exact ⟨_, e, .inl ⟨st, _, _, hst, rfl⟩⟩
  · exact ⟨_, e, .inl ⟨.invalidCrc, _, _, nofun, rfl⟩⟩
  · exact ⟨_, e, .inr ⟨rfl, fun _ => by simp, fun hi => absurd rfl hi⟩⟩

theorem execFipEnc_ends (s : State) :
    ∃ t, execFipEnc s = .next t ∧ (FailedFrom s t ∨ SucceededFrom .fipEnc s t) := by
  by_cases h : s.fip.ver = Config.fipVersion
  · obtain ⟨b, -, -, e⟩ := execFipEnc_ok h
    exact ⟨_, e, .inr ⟨rfl, fun hi => absurd (by decide) hi, fun _ => rfl⟩⟩
  · exact ⟨_, execFipEnc_fail h, .inl (State.complete_failedFrom s nofun)⟩

theorem execFipDec_ends (s : State) :
    ∃ t, execFipDec s = .next t ∧ (FailedFrom s t ∨ SucceededFrom .fipDec s t) := by
  rcases Nat.lt_or_ge s.wireLen.toNat 10 with h | h
  · exact ⟨_, execFipDec_short h, .inl (State.complete_failedFrom s nofun)⟩
  · rcases execFipDec_cases h with ⟨-, e⟩ | ⟨-, f, -, e⟩
    · exact ⟨_, e, .inl ⟨.invalidFrame, _, _, nofun, rfl⟩⟩
    · exact ⟨_, e, .inr ⟨rfl, fun _ => rfl, fun _ => rfl⟩⟩

/-- Every command completes, as a failure that changes nothing or as a success that writes its own outputs. -/
theorem exec_ends (i : Instr) (s : State) :
    ∃ t, exec i s = .next t ∧ (FailedFrom s t ∨ SucceededFrom i s t) := by
  cases i with
  | hdrEnc => exact execHdrEnc_ends s
  | hdrDec => exact execHdrDec_ends s
  | frmEnc => exact execFrmEnc_ends s
  | frmDec => exact execFrmDec_ends s
  | fipEnc => exact execFipEnc_ends s
  | fipDec => exact execFipDec_ends s

/-- The completion of a latched word: a failure, BAD_OP among them, or the success of the command it selects. -/
theorem runWord_ends {w : Word} {s t : State} (h : runWord w s = .next t) :
    FailedFrom s t ∨ ∃ i, decodeCmd w = .ok i ∧ SucceededFrom i s t := by
  rcases runWord_cases w s with ⟨i, hi, e⟩ | ⟨_, -, e⟩
  · obtain ⟨t', e', ht⟩ := exec_ends i s
    obtain rfl : t' = t := Host.Outcome.next.inj (e'.symm.trans (e.symm.trans h))
    exact ht.imp_right fun hs => ⟨i, hi, hs⟩
  · obtain rfl : s.complete .badOp = t := Host.Outcome.next.inj (e.symm.trans h)
    exact .inl (State.complete_failedFrom s nofun)

/-! ### What a host write does -/

/-- A register write leaves both buffers and the model's bookkeeping alone, and the engine too unless it issues a command. -/
theorem State.writeReg_frame {s t : State} {v : Word} {r : Reg} (h : s.writeReg v r = .next t) :
    t = { s with engine := t.engine, wireLen := t.wireLen, payLen := t.payLen,
                 frmSof := t.frmSof, frmEof := t.frmEof, frmHdrv := t.frmHdrv, hdr := t.hdr,
                 fip := t.fip } ∧
      (r ≠ .cmd → t.engine = s.engine) := by
  cases r with
  | cmd => cases h; exact ⟨rfl, fun hr => absurd rfl hr⟩
  | wireLen | payLen =>
    simp only [State.writeReg] at h
    split at h
    · cases h; exact ⟨rfl, fun _ => rfl⟩
    · cases h
  | _ => cases h; exact ⟨rfl, fun _ => rfl⟩

/-- A write of one register is not read back at another; a command issued shows in STATUS. -/
theorem State.readReg_writeReg_ne {s t : State} {v : Word} {r r' : Reg}
    (h : s.writeReg v r = .next t) (hne : r' ≠ r) (hcmd : r = .cmd → r' ≠ .status) :
    t.readReg r' = s.readReg r' := by
  cases r with
  | cmd =>
    cases h
    cases r' with
    | status => exact absurd rfl (hcmd rfl)
    | _ => rfl
  | wireLen | payLen =>
    simp only [State.writeReg] at h
    split at h
    · cases h; cases r' <;> trivial
    · cases h
  | _ => cases h; cases r' <;> trivial

theorem target?_eq_reg {a : Addr} {r : Reg} (h : target? a = some (.reg r)) : r.offset = a := by
  rcases target?_cases a with ⟨r', rfl, e⟩ | ⟨-, ⟨-, -, e⟩ | ⟨-, -, e⟩ | ⟨-, -, e⟩⟩
  · cases e.symm.trans h
    rfl
  all_goals cases e.symm.trans h

/-- An address that reaches a window word is that of the word's first byte, which is within the capacity (R63, R64). -/
theorem target?_eq_window {a : Addr} {buf : Buffer} {k : Nat}
    (h : target? a = some (.window buf k)) : a.toNat = buf.base + k ∧ k < buf.capacity := by
  rcases target?_cases a with ⟨r, -, e⟩ | ⟨-, ⟨h1, h2, e⟩ | ⟨h1, h2, e⟩ | ⟨-, -, e⟩⟩
  · cases e.symm.trans h
  · cases e.symm.trans h
    simp only [Buffer.base, Buffer.capacity]
    omega
  · cases e.symm.trans h
    simp only [Buffer.base, Buffer.capacity]
    omega
  · cases e.symm.trans h

/-! ### What a step does -/

/-- Everything a step that answers a next state can do. -/
inductive Transition (s : State) : State → Prop
  /-- a host read, or a cycle that finds the engine IDLE or in reset -/
  | still (d : Nat) (rs : List HostReply) :
      Transition s { s with draws := d, inputs := s.inputs.tail, replies := rs }
  /-- a host write of a register -/
  | regWrite {t : State} (r : Reg) (v : Word) (hr : s.inReset = false) (hb : s.isBusy = false)
      (hin : s.NextWrite r.offset v s.inputs.tail)
      (h : State.writeReg { s with inputs := s.inputs.tail } v r = .next t) : Transition s t
  /-- a host write of a window word -/
  | windowWrite (a : Addr) (buf : Buffer) (k : Nat) (v : Word) (hr : s.inReset = false)
      (hb : s.isBusy = false) (hin : s.NextWrite a v s.inputs.tail) (ha : a.toNat = buf.base + k)
      (h4 : a.toNat % 4 = 0) (hk : k < buf.capacity) :
      Transition s (State.memWrite { s with inputs := s.inputs.tail } buf k (be32 v))
  /-- the reset input driven -/
  | reset (b : Bool) (hin : s.inputs = .resetInput b :: s.inputs.tail) :
      Transition s (State.driveReset { s with inputs := s.inputs.tail } b)
  /-- a cycle of a command, not its last -/
  | countDown (w : Word) (n : Nat) (hr : s.inReset = false) (he : s.engine = .busy w (n + 2)) :
      Transition s { s with engine := .busy w (n + 1), inputs := s.inputs.tail }
  /-- the last cycle of a command -/
  | completion {t : State} (w : Word) (n : Nat) (hr : s.inReset = false)
      (he : s.engine = .busy w n) (hn : n ≤ 1)
      (h : runWord w { s with inputs := s.inputs.tail } = .next t) : Transition s t

theorem Transition.of_engineCycle {s t : State}
    (h : engineCycle { s with inputs := s.inputs.tail } = .next t) : Transition s t := by
  rcases engineCycle_cases { s with inputs := s.inputs.tail } with
    ⟨-, e⟩ | ⟨-, l, -, e⟩ | ⟨hr, w, n, he, hn, e⟩ | ⟨hr, w, n, he, e⟩
  · cases e.symm.trans h; exact .still s.draws s.replies
  · cases e.symm.trans h; exact .still s.draws s.replies
  · exact .completion w n hr he hn (e.symm.trans h)
  · cases e.symm.trans h; exact .countDown w n hr he

theorem Transition.of_hostRead {s t : State} {bits : Nat} {a : Addr}
    (h : State.hostRead { s with inputs := s.inputs.tail } bits a = .next t) : Transition s t := by
  rcases State.hostRead_cases { s with inputs := s.inputs.tail } bits a with
    ⟨_, -, e⟩ | ⟨tg, d, -, e⟩
  · cases e.symm.trans h
  · cases e.symm.trans h; exact .still d _

theorem Transition.of_hostWrite {s t : State} {bits : Nat} {a : Addr} {v : Word}
    (hin : s.inputs = .access (.write bits a v) :: s.inputs.tail)
    (h : State.hostWrite { s with inputs := s.inputs.tail } bits a v = .next t) :
    Transition s t := by
  rcases State.hostWrite_cases { s with inputs := s.inputs.tail } bits a v with
    ⟨_, -, e⟩ | ⟨-, e⟩ | ⟨hb, r, hc, e⟩ | ⟨hb, buf, k, hc, e⟩
  · cases e.symm.trans h
  · cases e.symm.trans h
  · obtain ⟨hr, rfl, -, ht⟩ := State.checkAccess_ok.1 hc
    obtain rfl := target?_eq_reg ht
    exact .regWrite r v hr hb hin (e.symm.trans h)
  · obtain ⟨hr, rfl, h4, ht⟩ := State.checkAccess_ok.1 hc
    obtain ⟨ha, hk⟩ := target?_eq_window ht
    cases e.symm.trans h
    exact .windowWrite a buf k v hr hb hin ha h4 hk

/-- The case analysis of a step. -/
theorem Transition.of_step {s t : State} (h : step s = .next t) : Transition s t := by
  cases hin : s.inputs with
  | nil =>
    have e : { s with inputs := s.inputs.tail } = s := by rw [hin, List.tail_nil, ← hin]
    exact .of_engineCycle (by rw [e, ← step_nil hin, h])
  | cons ev rest =>
    have ht : s.inputs.tail = rest := by rw [hin, List.tail_cons]
    have hs : s.inputs = ev :: s.inputs.tail := by rw [ht, hin]
    rw [step_cons hs] at h
    match ev with
    | .cycle => exact .of_engineCycle h
    | .resetInput b => cases h; exact .reset b hs
    | .access (.read bits a) => exact .of_hostRead h
    | .access (.write bits a v) => exact .of_hostWrite hs h

/-! ### An engine cycle, by the phase it finds -/

theorem engineCycle_of_inReset {s : State} (hr : s.inReset = true) : engineCycle s = .next s := by
  simp only [engineCycle, hr, if_true]

theorem engineCycle_of_idle {s : State} {l : Option Status} (he : s.engine = .idle l) :
    engineCycle s = .next s := by
  simp only [engineCycle, he, ite_self]

theorem engineCycle_of_last {s : State} {w : Word} {n : Nat} (hr : s.inReset = false)
    (he : s.engine = .busy w n) (hn : n ≤ 1) : engineCycle s = runWord w s := by
  obtain rfl | rfl : n = 0 ∨ n = 1 := by omega
  all_goals simp [engineCycle, hr, he]

theorem engineCycle_of_more {s : State} {w : Word} {n : Nat} (hr : s.inReset = false)
    (he : s.engine = .busy w (n + 2)) :
    engineCycle s = .next { s with engine := .busy w (n + 1) } := by
  simp [engineCycle, hr, he]

/-! ### The reset input released, by the level it finds -/

theorem State.driveReset_false_of_inReset {s : State} (hr : s.inReset = true) :
    s.driveReset false = { s.resetEngine with inReset := false } := by
  simp only [State.driveReset, hr, if_true, Bool.false_eq_true, if_false]

theorem State.driveReset_false_of_out {s : State} (hr : s.inReset = false) :
    s.driveReset false = s := by
  simp only [State.driveReset, hr, Bool.false_eq_true, if_false]

end Sys2Proof.Machine
end

section
/-! PROOFS. What changes STATUS, the registers and the buffers (O13, O14, O15). -/

namespace Sys2Proof.Machine

/-! ### What is read from a register -/

/-- A register other than STATUS reads the same whatever the engine, the buffers, CRC_ACC, the reset input and the model's bookkeeping are. -/
theorem State.readReg_frame {s : State} {r : Reg} (hr : r ≠ .status) {e : Engine} {w p : Memory}
    {c : Word} {ir : Bool} {d : Nat} {ins : List HostEvent} {rs : List HostReply} :
    State.readReg { s with engine := e, wire := w, pay := p, crcAcc := c, inReset := ir,
                           draws := d, inputs := ins, replies := rs } r = s.readReg r := by
  cases r with
  | status => exact absurd rfl hr
  | _ => rfl

theorem State.readReg_inputs (s : State) (ins : List HostEvent) (r : Reg) :
    State.readReg { s with inputs := ins } r = s.readReg r := by
  cases r <;> rfl

theorem FailedFrom.readReg {s t : State} (h : FailedFrom s t) {r : Reg} (hr : r ≠ .status) :
    t.readReg r = s.readReg r := by
  obtain ⟨_, _, _, -, rfl⟩ := h
  exact State.readReg_frame hr

/-- A window write shows in no register. -/
theorem State.readReg_memWrite (s : State) (buf : Buffer) (k : Nat) (v : Bytes) (r : Reg) :
    (s.memWrite buf k v).readReg r = s.readReg r := by
  cases buf <;> cases r <;> rfl

/-! ### STATUS, the other registers, and the buffers -/

/-- Settles O13, by the case analysis of a step. -/
theorem onlyThreeEventsChangeStatus : Obligations.OnlyThreeEventsChangeStatus := by
  intro s t hstep hne
  cases Transition.of_step hstep with
  | still d rs => exact absurd rfl hne
  | regWrite r v hr hb hin h =>
    by_cases hcmd : r = .cmd
    · subst hcmd; cases h
      exact .inl ⟨v, _, _, hin, hb, rfl⟩
    · exact absurd (congrArg Engine.statusWord ((State.writeReg_frame h).2 hcmd)) hne
  | windowWrite a buf k v hr hb hin ha h4 hk => exact absurd (by simp) hne
  | reset b hin => exact .inr (.inr ⟨b, _, hin⟩)
  | countDown w n hr he => exact absurd (by simp [he]) hne
  | completion w n hr he hn h =>
    refine .inr (.inl ?_)
    rcases runWord_ends h with hf | ⟨i, -, hs⟩
    · obtain ⟨st, e⟩ := hf.engine
      exact ⟨w, n, st, he, hn, e⟩
    · exact ⟨w, n, .ok, he, hn, hs.engine⟩

/-- Settles O14, by the case analysis of a step. -/
theorem registersChangeOnlyByTheirWriters : Obligations.RegistersChangeOnlyByTheirWriters := by
  intro s t r hstep hst hne
  cases Transition.of_step hstep with
  | still d rs => exact (hne (State.readReg_frame hst)).elim
  | regWrite r' v hr hb hin h =>
    by_cases e : r = r'
    · exact .inl ⟨v, _, e ▸ hin⟩
    · exact (hne ((State.readReg_writeReg_ne h e fun _ => hst).trans (State.readReg_frame hst))).elim
  | windowWrite a buf k v hr hb hin ha h4 hk =>
    exact (hne ((State.readReg_memWrite _ buf k _ r).trans (State.readReg_frame hst))).elim
  | reset b hin => exact .inr (.inr ⟨b, _, hin⟩)
  | countDown w n hr he => exact (hne (State.readReg_frame hst)).elim
  | completion w n hr he hn h =>
    rcases runWord_ends h with hf | ⟨i, -, hs⟩
    · exact (hne ((hf.readReg hst).trans (State.readReg_frame hst))).elim
    · exact .inr (.inl ⟨by simp [he], hs.engine⟩)

theorem State.buf_memWrite_self (s : State) (buf : Buffer) (off : Nat) (v : Bytes) :
    (s.memWrite buf off v).buf buf = (s.buf buf).putAll off v := by
  cases buf <;> rfl

theorem State.buf_memWrite_ne (s : State) {buf buf' : Buffer} (off : Nat) (v : Bytes)
    (h : buf ≠ buf') :
    (s.memWrite buf off v).buf buf' = s.buf buf' := by
  cases buf <;> cases buf' <;> trivial

/-- A buffer write changes only the bytes of its own range, in its own buffer (R63, R68). -/
theorem State.byteAt?_memWrite_changed {s : State} {buf buf' : Buffer} {off j : Nat} {v : Bytes}
    (h : ((s.memWrite buf off v).buf buf').byteAt? j ≠ (s.buf buf').byteAt? j) :
    buf = buf' ∧ off ≤ j ∧ j < off + v.length := by
  by_cases hb : buf = buf'
  · subst hb
    rw [State.buf_memWrite_self, Memory.byteAt?_putAll] at h
    exact ⟨rfl, Classical.byContradiction fun hn => h (if_neg hn)⟩
  · exact absurd (by rw [State.buf_memWrite_ne s off v hb]) h

/-- What can change byte `k` of a buffer: a write of its window word, a successful command that writes the buffer, or reset. -/
theorem byteAt?_changed {s t : State} (hstep : step s = .next t) (buf : Buffer) {k : Nat}
    (hne : (t.buf buf).byteAt? k ≠ (s.buf buf).byteAt? k) :
    (∃ a v rest, s.NextWrite a v rest ∧ a.toNat ≤ buf.base + k ∧ buf.base + k < a.toNat + 4) ∨
    (∃ w n i, s.engine = .busy w n ∧ decodeCmd w = .ok i ∧ SucceededFrom i s t) ∨
    (∃ b rest, s.inputs = .resetInput b :: rest) := by
  cases Transition.of_step hstep with
  | still d rs => cases buf <;> exact absurd rfl hne
  | regWrite r v hr hb hin h =>
    have e := (State.writeReg_frame h).1
    rw [e] at hne
    cases buf <;> exact absurd rfl hne
  | windowWrite a buf' j v hr hb hin ha h4 hk =>
    have e : (State.buf { s with inputs := s.inputs.tail } buf) = s.buf buf := by cases buf <;> rfl
    rw [← e] at hne
    obtain ⟨rfl, h1, h2⟩ := State.byteAt?_memWrite_changed hne
    rw [be32_length] at h2
    exact .inl ⟨a, v, _, hin, by omega, by omega⟩
  | reset b hin => exact .inr (.inr ⟨b, _, hin⟩)
  | countDown w n hr he => cases buf <;> exact absurd rfl hne
  | completion w n hr he hn h =>
    rcases runWord_ends h with hf | ⟨i, hi, hs⟩
    · cases buf with
      | wire => exact absurd (congrArg (·.byteAt? k) hf.wire) hne
      | pay => exact absurd (congrArg (·.byteAt? k) hf.pay) hne
    · exact .inr (.inl ⟨w, n, i, he, hi, ⟨hs.engine, hs.wire, hs.pay⟩⟩)

/-- Settles O15: of the commands, only an encode writes WIRE and only FRM.DEC writes PAY. -/
theorem bufferBytesChangeOnlyByTheirWriters :
    Obligations.BufferBytesChangeOnlyByTheirWriters := by
  intro s t k hstep
  refine ⟨fun hne => ?_, fun hne => ?_⟩
  · refine (byteAt?_changed hstep .wire hne).imp_right (.imp_left ?_)
    rintro ⟨w, n, i, he, hi, hs⟩
    exact ⟨hs.engine, w, n, i, he, hi,
      Classical.byContradiction fun hn => hne (congrArg (·.byteAt? k) (hs.wire hn))⟩
  · refine (byteAt?_changed hstep .pay hne).imp_right (.imp_left ?_)
    rintro ⟨w, n, i, he, hi, hs⟩
    obtain rfl : i = .frmDec :=
      Classical.byContradiction fun hn => hne (congrArg (·.byteAt? k) (hs.pay hn))
    exact ⟨hs.engine, w, n, he, hi⟩

end Sys2Proof.Machine
end

section
/-! PROOFS. CRC_ACC reaches no result (O34). -/

namespace Sys2Proof.Machine

/-! ### The machine under another value of CRC_ACC -/

/-- Two outcomes that differ in CRC_ACC at most. -/
def AgreeButCrcAcc (o o' : Host.Outcome State Fault Refusal) : Prop :=
  (∃ t t', o = .next t ∧ o' = .next t' ∧ t = t'.withCrcAcc t.crcAcc) ∨
  (∃ r, o = .refused r ∧ o' = .refused r)

theorem AgreeButCrcAcc.next (t : State) (x : Word) :
    AgreeButCrcAcc (.next t) (.next (t.withCrcAcc x)) :=
  .inl ⟨t, t.withCrcAcc x, rfl, rfl, rfl⟩

theorem AgreeButCrcAcc.refused (r : Refusal) : AgreeButCrcAcc (.refused r) (.refused r) :=
  .inr ⟨r, rfl, rfl⟩

theorem AgreeButCrcAcc.same (t : State) : AgreeButCrcAcc (.next t) (.next t) :=
  .next t t.crcAcc

theorem State.memRead_withCrcAcc (s : State) (x : Word) (buf : Buffer) (off n : Nat) :
    (s.withCrcAcc x).memRead buf off n =
      ((s.memRead buf off n).1, (s.memRead buf off n).2.withCrcAcc x) := by
  cases buf <;> rfl

theorem State.memWrite_withCrcAcc (s : State) (x : Word) (buf : Buffer) (off : Nat) (v : Bytes) :
    (s.withCrcAcc x).memWrite buf off v = (s.memWrite buf off v).withCrcAcc x := by
  cases buf <;> rfl

theorem State.readFrame_withCrcAcc (s : State) (x : Word) :
    (s.withCrcAcc x).readFrame = (s.readFrame.1, s.readFrame.2.withCrcAcc x) := rfl

/-- What the generator leaves does not depend on what CRC_ACC held before (R101, log 6). -/
theorem State.crcRelease_withCrcAcc (s : State) (x : Word) :
    (s.withCrcAcc x).crcRelease = s.crcRelease := rfl

theorem execHdrEnc_withCrcAcc (s : State) (x : Word) :
    AgreeButCrcAcc (execHdrEnc s) (execHdrEnc (s.withCrcAcc x)) := by
  simp only [execHdrEnc, State.memWrite_withCrcAcc]
  exact .next _ x

theorem execHdrDec_withCrcAcc (s : State) (x : Word) :
    AgreeButCrcAcc (execHdrDec s) (execHdrDec (s.withCrcAcc x)) := by
  simp only [execHdrDec, State.withCrcAcc_wireLen, State.memRead_withCrcAcc]
  split
  · exact .next _ x
  · cases hdrDecode (s.memRead .wire 0 24).1 <;> exact .next _ x

theorem execFrmEnc_withCrcAcc (s : State) (x : Word) :
    AgreeButCrcAcc (execFrmEnc s) (execFrmEnc (s.withCrcAcc x)) := by
  simp only [execFrmEnc, State.readFrame_withCrcAcc, State.runCrc_fst, State.runCrc_snd,
    State.crcRelease_withCrcAcc]
  cases s.readFrame.1.hdr with
  | none => exact .next _ x
  | some h => exact .same _

theorem execFrmDec_withCrcAcc (s : State) (x : Word) :
    AgreeButCrcAcc (execFrmDec s) (execFrmDec (s.withCrcAcc x)) := by
  simp only [execFrmDec, State.withCrcAcc_wireLen, State.memRead_withCrcAcc, State.runCrc_fst,
    State.runCrc_snd, State.crcRelease_withCrcAcc]
  cases frmCheck (s.memRead .wire 0 s.wireLen.toNat).1 with
  | some st => exact .next _ x
  | none =>
    simp only
    split
    · exact .same _
    · cases frmExtract (s.memRead .wire 0 s.wireLen.toNat).1 <;> exact .same _

theorem execFipEnc_withCrcAcc (s : State) (x : Word) :
    AgreeButCrcAcc (execFipEnc s) (execFipEnc (s.withCrcAcc x)) := by
  have e : (s.withCrcAcc x).readFip = s.readFip := rfl
  simp only [execFipEnc, e, State.memWrite_withCrcAcc]
  cases fipEncode s.readFip <;> exact .next _ x

theorem execFipDec_withCrcAcc (s : State) (x : Word) :
    AgreeButCrcAcc (execFipDec s) (execFipDec (s.withCrcAcc x)) := by
  simp only [execFipDec, State.withCrcAcc_wireLen, State.memRead_withCrcAcc]
  split
  · exact .next _ x
  · cases fipDecode (s.memRead .wire 0 10).1 <;> exact .next _ x

theorem exec_withCrcAcc (i : Instr) (s : State) (x : Word) :
    AgreeButCrcAcc (exec i s) (exec i (s.withCrcAcc x)) := by
  cases i with
  | hdrEnc => exact execHdrEnc_withCrcAcc s x
  | hdrDec => exact execHdrDec_withCrcAcc s x
  | frmEnc => exact execFrmEnc_withCrcAcc s x
  | frmDec => exact execFrmDec_withCrcAcc s x
  | fipEnc => exact execFipEnc_withCrcAcc s x
  | fipDec => exact execFipDec_withCrcAcc s x

theorem runWord_withCrcAcc (w : Word) (s : State) (x : Word) :
    AgreeButCrcAcc (runWord w s) (runWord w (s.withCrcAcc x)) := by
  unfold runWord
  cases decodeCmd w with
  | ok i => exact exec_withCrcAcc i s x
  | error _ => exact .next _ x

theorem engineCycle_withCrcAcc (s : State) (x : Word) :
    AgreeButCrcAcc (engineCycle s) (engineCycle (s.withCrcAcc x)) := by
  rcases engineCycle_cases s with
    ⟨hr, e⟩ | ⟨hr, l, he, e⟩ | ⟨hr, w, n, he, hn, e⟩ | ⟨hr, w, n, he, e⟩
  · rw [e, engineCycle_of_inReset (s := s.withCrcAcc x) hr]
    exact .next s x
  · rw [e, engineCycle_of_idle (s := s.withCrcAcc x) he]
    exact .next s x
  · rw [e, engineCycle_of_last (s := s.withCrcAcc x) hr he hn]
    exact runWord_withCrcAcc w s x
  · rw [e, engineCycle_of_more (s := s.withCrcAcc x) hr he]
    exact .next _ x

theorem State.writeReg_withCrcAcc (s : State) (v : Word) (r : Reg) (x : Word) :
    AgreeButCrcAcc (s.writeReg v r) ((s.withCrcAcc x).writeReg v r) := by
  cases r with
  | wireLen | payLen =>
    simp only [State.writeReg]
    split
    · exact .next _ x
    · exact .refused _
  | _ => exact .next _ x

theorem State.readWindow_withCrcAcc (s : State) (buf : Buffer) (k : Nat) (x : Word) :
    (s.withCrcAcc x).readWindow buf k =
      ((s.readWindow buf k).1, (s.readWindow buf k).2.withCrcAcc x) := by
  simp only [State.readWindow, State.memRead_withCrcAcc]

theorem State.readTarget_withCrcAcc (s : State) (t : Target) (x : Word) :
    (s.withCrcAcc x).readTarget t = ((s.readTarget t).1, (s.readTarget t).2.withCrcAcc x) := by
  have hb : (s.withCrcAcc x).isBusy = s.isBusy := rfl
  cases t with
  | reg r =>
    cases r with
    | cmd | status => rfl
    | _ => simp only [State.readTarget, hb]; cases s.isBusy <;> rfl
  | window buf k =>
    simp only [State.readTarget, hb, State.readWindow_withCrcAcc]
    cases s.isBusy <;> rfl

theorem State.hostRead_withCrcAcc (s : State) (bits : Nat) (a : Addr) (x : Word) :
    AgreeButCrcAcc (s.hostRead bits a) ((s.withCrcAcc x).hostRead bits a) := by
  have hc : (s.withCrcAcc x).checkAccess bits a = s.checkAccess bits a := rfl
  simp only [State.hostRead, hc, State.readTarget_withCrcAcc]
  cases s.checkAccess bits a with
  | error e => exact .refused e
  | ok t => exact .next _ x

theorem State.hostWrite_withCrcAcc (s : State) (bits : Nat) (a : Addr) (v x : Word) :
    AgreeButCrcAcc (s.hostWrite bits a v) ((s.withCrcAcc x).hostWrite bits a v) := by
  have hc : (s.withCrcAcc x).checkAccess bits a = s.checkAccess bits a := rfl
  have hb : (s.withCrcAcc x).isBusy = s.isBusy := rfl
  simp only [State.hostWrite, hc, hb, State.memWrite_withCrcAcc]
  cases s.checkAccess bits a with
  | error e => exact .refused e
  | ok t =>
    cases s.isBusy with
    | true => exact .refused _
    | false =>
      cases t with
      | reg r => exact State.writeReg_withCrcAcc s v r x
      | window buf k => exact .next _ x

theorem State.driveReset_withCrcAcc (s : State) (b : Bool) (x : Word) :
    AgreeButCrcAcc (.next (s.driveReset b)) (.next ((s.withCrcAcc x).driveReset b)) := by
  cases b with
  | true => exact .same _
  | false =>
    cases hr : s.inReset with
    | true =>
      rw [State.driveReset_false_of_inReset hr,
        State.driveReset_false_of_inReset (s := s.withCrcAcc x) hr]
      exact .same _
    | false =>
      rw [State.driveReset_false_of_out hr, State.driveReset_false_of_out (s := s.withCrcAcc x) hr]
      exact .next s x

theorem serve_withCrcAcc (ev : HostEvent) (s : State) (x : Word) :
    AgreeButCrcAcc (serve ev s) (serve ev (s.withCrcAcc x)) := by
  cases ev with
  | access acc =>
    cases acc with
    | read bits a => exact State.hostRead_withCrcAcc s bits a x
    | write bits a v => exact State.hostWrite_withCrcAcc s bits a v x
  | resetInput b => exact State.driveReset_withCrcAcc s b x
  | cycle => exact engineCycle_withCrcAcc s x

/-- Settles O34: each operation a step is made of either carries CRC_ACC along untouched or overwrites it with a free value. -/
theorem crcAccNeverReachesAResult : Obligations.CrcAccNeverReachesAResult := by
  intro s x
  change AgreeButCrcAcc (step s) (step (s.withCrcAcc x))
  cases hin : s.inputs with
  | nil =>
    rw [step_nil hin, step_nil (s := s.withCrcAcc x) hin]
    exact engineCycle_withCrcAcc s x
  | cons ev rest =>
    rw [step_cons hin, step_cons (s := s.withCrcAcc x) hin]
    exact serve_withCrcAcc ev { s with inputs := rest } x

end Sys2Proof.Machine
end

section
/-! PROOFS. Register writes (O38, O39, O40), acceptance and the last cycle of a command (O5, O6), STATUS (O12), the register map (O37) and reset (O1, O46). -/

namespace Sys2Proof.Machine

/-! ### Host writes of registers while IDLE -/

/-- A register write while IDLE and out of reset is within the contract, and is served. -/
theorem step_regWrite {s : State} {r : Reg} {v : Word} {rest : List HostEvent}
    (hr : s.inReset = false) (hb : s.isBusy = false) (hin : s.NextWrite r.offset v rest) :
    step s = State.writeReg { s with inputs := rest } v r := by
  have hc : State.checkAccess { s with inputs := rest } 32 r.offset = .ok (.reg r) :=
    State.checkAccess_offset hr r
  have hb' : State.isBusy { s with inputs := rest } = false := hb
  rw [step_cons hin]
  simp only [serve, State.hostAccess, State.hostWrite, hc, hb', Bool.false_eq_true, if_false]

/-- A field of `n` bits keeps the low `n` bits of what is written, and reads back with zeros above (R35). -/
theorem setWidth_setWidth_eq_and (v : Word) (n : Nat) :
    (v.setWidth n).setWidth 32 = v &&& BitVec.ofNat 32 (2 ^ n - 1) := by
  apply BitVec.eq_of_getLsbD_eq
  intro i hi
  simp only [BitVec.getLsbD_setWidth, BitVec.getLsbD_and, BitVec.getLsbD_ofNat,
    Nat.testBit_two_pow_sub_one, hi, decide_true, Bool.true_and, Bool.and_comm]

/-- A bit position is that of one of the five flags, or of none (R34). -/
theorem fipFlags_position (i : Nat) : i = 0 ∨ i = 1 ∨ i = 2 ∨ i = 14 ∨ i = 15 ∨
    (i ≠ 0 ∧ i ≠ 1 ∧ i ≠ 2 ∧ i ≠ 14 ∧ i ≠ 15) := by
  omega

/-- The bits of FIP_FLAGS, by position (R34). -/
theorem FipRegs.getLsbD_flagsWord (f : FipRegs) (i : Nat) :
    f.flagsWord.getLsbD i =
      if i = 0 then f.fcf else if i = 1 then f.sol else if i = 2 then f.afl
      else if i = 14 then f.spma else if i = 15 then f.fpma else false := by
  change BitVec.getLsbD (w := 16 + 1 + 1 + 11 + 1 + 1 + 1) f.flagsWord i = _
  simp only [FipRegs.flagsWord, BitVec.getLsbD_append]
  obtain rfl | rfl | rfl | rfl | rfl | ⟨h0, h1, h2, h14, h15⟩ := fipFlags_position i
  iterate 5 · simp
  · rw [if_neg h0, if_neg h1, if_neg h2, if_neg h14, if_neg h15, if_neg (by omega),
      if_neg (by omega), if_neg (by omega), BitVec.getLsbD_zero]
    split
    · rfl
    · rw [if_neg (by omega), if_neg (by omega), BitVec.getLsbD_zero]

/-- The bits that are the fields of FIP_FLAGS, by position (R34). -/
theorem getLsbD_fipFlags_mask : ∀ i < 32, (0x0000C007#32).getLsbD i =
    decide (i = 0 ∨ i = 1 ∨ i = 2 ∨ i = 14 ∨ i = 15) := by
  decide

/-- FIP_FLAGS keeps bits 15, 14, 2, 1 and 0 of what is written (R34). -/
theorem FipRegs.flagsWord_withFlags (f : FipRegs) (v : Word) :
    (f.withFlags v).flagsWord = v &&& 0x0000C007#32 := by
  apply BitVec.eq_of_getLsbD_eq
  intro i hi
  rw [FipRegs.getLsbD_flagsWord, BitVec.getLsbD_and, getLsbD_fipFlags_mask i hi]
  simp only [FipRegs.withFlags]
  obtain rfl | rfl | rfl | rfl | rfl | ⟨h0, h1, h2, h14, h15⟩ := fipFlags_position i
  iterate 5 · simp
  · simp [h0, h1, h2, h14, h15]

theorem State.readReg_writeReg_self {s t : State} {v : Word} {r : Reg}
    (hr : r ∉ [Reg.cmd, .status, .wireLen, .payLen]) (h : s.writeReg v r = .next t) :
    t.readReg r = v &&& r.mask := by
  cases r with
  | cmd | status | wireLen | payLen => exact absurd (by decide) hr
  | frmHdrv =>
    cases h
    exact (congrArg _ BitVec.setWidth_one.symm).trans (setWidth_setWidth_eq_and v 1)
  | hdrParam => cases h; exact (BitVec.and_allOnes (x := v)).symm
  | fipFlags => cases h; exact FipRegs.flagsWord_withFlags s.fip v
  | _ => cases h; exact setWidth_setWidth_eq_and v _

/-- A field register takes any value, and its write touches the field registers only. -/
theorem State.writeReg_field {s : State} {v : Word} {r : Reg}
    (hr : r ∉ [Reg.cmd, .status, .wireLen, .payLen]) :
    ∃ t, s.writeReg v r = .next t ∧
      t = { s with frmSof := t.frmSof, frmEof := t.frmEof, frmHdrv := t.frmHdrv, hdr := t.hdr,
                   fip := t.fip } := by
  cases r with
  | cmd | status | wireLen | payLen => exact absurd (by decide) hr
  | _ => exact ⟨_, rfl, rfl⟩

/-- Settles O38: the write is served, and what it stores is the field's bits. -/
theorem fieldWriteKeepsTheFieldBits : Obligations.FieldWriteKeepsTheFieldBits := by
  intro s r v rest hr hres hidle hin
  have hcmd : r ≠ .cmd := fun e => hr (by simp [e])
  obtain ⟨t, ht, hframe⟩ := State.writeReg_field (s := { s with inputs := rest }) (v := v) hr
  refine ⟨t, (step_regWrite hres hidle hin).trans ht, State.readReg_writeReg_self hr ht, ?_, hframe⟩
  intro r' hne
  exact (State.readReg_writeReg_ne ht hne fun e => absurd e hcmd).trans
    (State.readReg_inputs s rest r')

/-- A value within the larger capacity fits a length register (R27, R28). -/
theorem setWidth_setWidth_of_le_wireMax {v : Word} (h : v.toNat ≤ Config.wireMax) :
    (v.setWidth 17).setWidth 32 = v := by
  have hw := Config.wireMax_le
  apply BitVec.eq_of_toNat_eq
  rw [BitVec.toNat_setWidth, BitVec.toNat_setWidth, Nat.mod_eq_of_lt (b := 2 ^ 17) (by omega),
    Nat.mod_eq_of_lt v.isLt]

/-- Settles O39: the write is served as a write of the length register, which refuses a value above the capacity. -/
theorem lengthWritesWithinCapacity : Obligations.LengthWritesWithinCapacity := by
  intro s v rest hres hidle
  refine ⟨fun hin => ?_, fun hin => ?_⟩
  · have e := step_regWrite (r := .wireLen) hres hidle hin
    refine ⟨fun hle => ⟨_, e.trans (if_pos hle), ?_, rfl⟩, fun hlt => ⟨_, e.trans (if_neg ?_)⟩⟩
    · exact setWidth_setWidth_of_le_wireMax hle
    · omega
  · have e := step_regWrite (r := .payLen) hres hidle hin
    refine ⟨fun hle => ⟨_, e.trans (if_pos hle), ?_, rfl⟩, fun hlt => ⟨_, e.trans (if_neg ?_)⟩⟩
    · exact setWidth_setWidth_of_le_wireMax (Nat.le_trans hle (Nat.le_add_right _ _))
    · omega

/-- Settles O40: both accesses are within the contract out of reset, and the write is served as a write of STATUS. -/
theorem statusWriteIgnoredAndCmdReadsZero : Obligations.StatusWriteIgnoredAndCmdReadsZero := by
  refine ⟨fun s v rest hres hidle hin => step_regWrite (r := .status) hres hidle hin, ?_⟩
  intro s rest hres hin
  have hc : State.checkAccess { s with inputs := rest } 32 Reg.cmd.offset = .ok (.reg .cmd) :=
    State.checkAccess_offset hres .cmd
  change s.NextRead Reg.cmd.offset rest at hin
  rw [step_cons hin]
  simp only [serve, State.hostAccess, State.hostRead, hc]
  rfl

/-! ### Acceptance and the last cycle of a command -/

/-- LAT(op, n) is within R250's bounds. -/
theorem Config.lat_bounds (w : Word) (n : Nat) :
    1 ≤ Config.lat w n ∧ Config.lat w n ≤ Config.latSlope * (n + 1) := by
  have hpos : 0 < Config.latSlope * (n + 1) := Nat.mul_pos (Nat.succ_pos _) (Nat.succ_pos _)
  exact ⟨Nat.le_add_left 1 _, Nat.mod_lt _ hpos⟩

/-- Settles O5: the write is served as `State.accept`, whose count is LAT(v, n). -/
theorem acceptanceSetsBusyAndLatchesTheWord : Obligations.AcceptanceSetsBusyAndLatchesTheWord := by
  intro s v rest hres hidle hin
  obtain ⟨hlo, hhi⟩ := Config.lat_bounds v (s.inputBytes v)
  have e : step s = .next { s with
      inputs := rest, engine := .busy v (Config.lat v (s.inputBytes v)) } :=
    step_regWrite (r := .cmd) hres hidle hin
  refine ⟨_, hlo, hhi, e, fun t ht => ?_⟩
  cases e.symm.trans ht
  simp

/-- The state `withFetchWord` builds serves a cycle, whether the host has events left or not (log 9). -/
theorem step_withFetchWord (s : State) (nbits w : Nat) :
    step (s.withFetchWord nbits w) = engineCycle { s with
      engine := .busy (BitVec.ofNat 32 (w % 2 ^ nbits)) 1, inReset := false } := by
  cases hin : s.inputs with
  | nil =>
    rw [step_nil (by simp only [State.withFetchWord, hin])]
    simp only [State.withFetchWord, hin]
  | cons ev rest =>
    rw [step_cons (e := .cycle) (rest := s.inputs) (by simp only [State.withFetchWord, hin])]
    simp only [serve, State.withFetchWord, hin]

/-- The last cycle of a latched command word runs the command. -/
theorem engineCycle_eq_exec {s : State} {w : Word} {n : Nat} {i : Instr} (hres : s.inReset = false)
    (he : s.engine = .busy w n) (hn : n ≤ 1) (hi : decodeCmd w = .ok i) :
    engineCycle s = exec i s := by
  simp only [engineCycle_of_last hres he hn, runWord, hi]

/-- Settles O6: in each of the three ways a cycle is served, it is the last one of `w`. -/
theorem stepRunsTheLatchedCommand : Obligations.StepRunsTheLatchedCommand := by
  refine ⟨fun s w n i hres he hn hi => ⟨fun hin => ?_, fun rest hin => ?_⟩, fun s w i hi => ?_⟩
  · rw [step_nil hin]
    exact engineCycle_eq_exec hres he hn hi
  · rw [step_cons hin]
    exact engineCycle_eq_exec (s := { s with inputs := rest }) hres he hn hi
  · rw [step_withFetchWord, Nat.mod_eq_of_lt w.isLt, BitVec.ofNat_toNat, BitVec.setWidth_eq]
    exact engineCycle_eq_exec rfl rfl (Nat.le_refl 1) hi

/-! ### STATUS, the register map and reset -/

/-- STATUS as laid out from its fields has its other bits zero (R25). -/
theorem packStatus_fields : ∀ (busy done : Bool) (code : BitVec 3),
    packStatus busy done code &&& 0xFFFFFF8C#32 = 0#32 ∧
      (packStatus busy done code).getLsbD 0 = busy ∧ (packStatus busy done code).getLsbD 1 = done ∧
      (packStatus busy done code).extractLsb' 4 3 = code := by
  decide

/-- Settles O12, by the three engine phases that STATUS tells apart. -/
theorem statusFieldsAreExclusive : Obligations.StatusFieldsAreExclusive := by
  intro s
  rw [State.statusWord_of_engine]
  match s.engine with
  | .busy _ _ =>
    obtain ⟨hz, hb, hd, hc⟩ := packStatus_fields true false 0#3
    exact ⟨hz, by rw [Engine.statusWord, hb, hd]; rfl, fun _ => hc⟩
  | .idle none =>
    obtain ⟨hz, hb, hd, hc⟩ := packStatus_fields false false 0#3
    exact ⟨hz, by rw [Engine.statusWord, hb, hd]; rfl, fun _ => hc⟩
  | .idle (some st) =>
    obtain ⟨hz, hb, hd, hc⟩ := packStatus_fields false true st.code
    exact ⟨hz, by rw [Engine.statusWord, hb, hd]; rfl, fun h => absurd (hd.symm.trans h) nofun⟩

theorem map_target?_offset (rs : List Reg) :
    (rs.map Reg.offset).map target? = rs.map fun r => some (.reg r) := by
  simp

/-- Settles O37: each offset of the table is a register's own, and the gap is no register's and in no window. -/
theorem registerMap : Obligations.RegisterMap :=
  ⟨map_target?_offset [.cmd, .status, .wireLen, .payLen, .frmSof, .frmEof, .frmHdrv],
    map_target?_offset [.hdrRctl, .hdrDid, .hdrPrio, .hdrSid, .hdrType, .hdrFctl, .hdrSeqid,
      .hdrDfctl, .hdrSeqcnt, .hdrOxid, .hdrRxid, .hdrParam],
    map_target?_offset [.fipVer, .fipProto, .fipSub, .fipDll, .fipFlags], rfl⟩

theorem FipRegs.flagsWord_reset : FipRegs.reset.flagsWord = 0#32 := by decide

/-- R41's state: registers at their reset values and buffers without a defined byte; CRC_ACC, the reset input and the model's own fields are left open. -/
def State.Cleared (t : State) : Prop :=
  t = { State.reset with crcAcc := t.crcAcc, inReset := t.inReset, draws := t.draws,
                         inputs := t.inputs, replies := t.replies }

theorem State.Cleared.readReg {t : State} (h : t.Cleared) (r : Reg) : t.readReg r = 0#32 := by
  rw [h]
  cases r with
  | fipFlags => exact FipRegs.flagsWord_reset
  | _ => rfl

theorem State.Cleared.engine {t : State} (h : t.Cleared) : t.engine = .idle none := by
  rw [h]; rfl

theorem State.Cleared.memRead {t : State} (h : t.Cleared) (buf : Buffer) (k : Nat) :
    t.memRead buf k 1 = ([Config.freeByte t.draws], t.setDraws (t.draws + 1)) := by
  rw [h]; cases buf <;> rfl

/-- Settles O1: both states are R41's. -/
theorem resetLeavesRegistersZero : Obligations.ResetLeavesRegistersZero := by
  have clean : ∀ t : State, t.Cleared → (∀ r : Reg, t.readReg r = 0#32) ∧ t.statusWord = 0#32 ∧
      t.engine = .idle none ∧
      ∀ buf k, t.memRead buf k 1 = ([Config.freeByte t.draws], t.setDraws (t.draws + 1)) :=
    fun t h => ⟨h.readReg, h.readReg .status, h.engine, h.memRead⟩
  refine ⟨clean State.reset rfl, fun s rest hres hin => ?_⟩
  refine ⟨{ State.resetEngine { s with inputs := rest } with inReset := false }, ?_,
    clean _ rfl, rfl, rfl, s.draws, rfl⟩
  rw [step_cons hin]
  exact congrArg Host.Outcome.next
    (State.driveReset_false_of_inReset (s := { s with inputs := rest }) hres)

/-- Settles O46: both lengths are 0 and both buffers are empty. -/
theorem invariantAtReset : Obligations.InvariantAtReset :=
  ⟨{ wireLen_le := Nat.zero_le _
     payLen_le := Nat.zero_le _
     wire_ok := .nil _
     pay_ok := .nil _
     reset_idle := nofun }, rfl⟩

end Sys2Proof.Machine
end

section
/-! PROOFS. The invariant of the machine is kept by every step (O47). -/

namespace Sys2Proof.Machine

/-! ### The operations keep the invariant -/

/-- The invariant speaks of the lengths, the buffers and, in reset, the engine only. -/
theorem State.Inv.congr {s t : State} (h : s.Inv) (hwl : t.wireLen = s.wireLen)
    (hpl : t.payLen = s.payLen) (hw : t.wire = s.wire) (hp : t.pay = s.pay)
    (hr : t.inReset = true → t.engine = .idle none) : t.Inv where
  wireLen_le := by rw [hwl]; exact h.wireLen_le
  payLen_le := by rw [hpl]; exact h.payLen_le
  wire_ok := by rw [hw]; exact h.wire_ok
  pay_ok := by rw [hp]; exact h.pay_ok
  reset_idle := hr

/-- A buffer write within the capacity (R68). -/
theorem State.Inv.memWrite {s : State} (h : s.Inv) (buf : Buffer) {off : Nat} {v : Bytes}
    (hc : off + v.length ≤ buf.capacity) : (s.memWrite buf off v).Inv := by
  cases buf with
  | wire => exact { h with wire_ok := h.wire_ok.putAll off v hc }
  | pay => exact { h with pay_ok := h.pay_ok.putAll off v hc }

theorem State.Inv.setWireLen {s : State} (h : s.Inv) {n : Nat} (hn : n ≤ Config.wireMax) :
    (s.setWireLen n).Inv :=
  { h with wireLen_le := Nat.le_trans (by simp [State.setWireLen, Nat.mod_le]) hn }

theorem State.Inv.setPayLen {s : State} (h : s.Inv) {n : Nat} (hn : n ≤ Config.payMax) :
    (s.setPayLen n).Inv :=
  { h with payLen_le := Nat.le_trans (by simp [State.setPayLen, Nat.mod_le]) hn }

theorem State.Inv.memRead {s : State} (h : s.Inv) (buf : Buffer) (off n : Nat) :
    (s.memRead buf off n).2.Inv :=
  h.congr rfl rfl rfl rfl h.reset_idle

theorem State.Inv.readFrame {s : State} (h : s.Inv) : s.readFrame.2.Inv :=
  h.memRead .pay 0 s.payLen.toNat

theorem State.Inv.writeHeader {s : State} (h : s.Inv) (hd : Header) : (s.writeHeader hd).Inv :=
  h.congr rfl rfl rfl rfl h.reset_idle

theorem State.Inv.writeFip {s : State} (h : s.Inv) (f : FipFrame) : (s.writeFip f).Inv :=
  h.congr rfl rfl rfl rfl h.reset_idle

theorem State.Inv.crcRelease {s : State} (h : s.Inv) : s.crcRelease.Inv :=
  h.congr rfl rfl rfl rfl h.reset_idle

/-- Out of reset the invariant says nothing of the engine. -/
theorem State.Inv.withEngine {s : State} (h : s.Inv) (hr : s.inReset = false) (e : Engine) :
    State.Inv { s with engine := e } :=
  h.congr rfl rfl rfl rfl fun hr' => absurd (hr.symm.trans hr') nofun

theorem State.Inv.complete {s : State} (h : s.Inv) (hr : s.inReset = false) (st : Status) :
    (s.complete st).Inv :=
  h.withEngine hr _

/-- The commit of FRM.DEC, of a payload within PAY (R157). -/
theorem State.Inv.writeFrame {s : State} (h : s.Inv) {f : Frame}
    (hf : f.payload.length ≤ Config.payMax) : (s.writeFrame f).Inv := by
  have h' : ((s.memWrite .pay 0 f.payload).setPayLen f.payload.length).Inv :=
    (h.memWrite .pay (by rw [Nat.zero_add]; exact hf)).setPayLen hf
  exact h'.congr (by simp) (by simp) (by simp) (by simp) (by simpa using h.reset_idle)

/-- R41's state meets the invariant, at either level of the reset input. -/
theorem State.Cleared.inv {s : State} (h : s.Cleared) : s.Inv :=
  invariantAtReset.1.congr (by rw [h]) (by rw [h]) (by rw [h]) (by rw [h]) fun _ => h.engine

theorem State.Inv.driveReset {s : State} (h : s.Inv) (b : Bool) : (s.driveReset b).Inv := by
  cases b with
  | true => exact State.Cleared.inv rfl
  | false =>
    cases hr : s.inReset with
    | true => rw [State.driveReset_false_of_inReset hr]; exact State.Cleared.inv rfl
    | false => rw [State.driveReset_false_of_out hr]; exact h

/-! ### The commands keep the invariant -/

theorem execHdrEnc_inv {s t : State} (h : s.Inv) (hr : s.inReset = false)
    (e : execHdrEnc s = .next t) : t.Inv := by
  have hw : 24 ≤ Config.wireMax := by rw [Config.wireMax_eq]; omega
  cases e
  exact ((h.memWrite .wire hw).setWireLen hw).complete (by simpa using hr) .ok

theorem execHdrDec_inv {s t : State} (h : s.Inv) (hr : s.inReset = false)
    (e : execHdrDec s = .next t) : t.Inv := by
  by_cases hl : s.wireLen.toNat = 24
  · obtain ⟨hd, -, e'⟩ := execHdrDec_ok hl
    cases e'.symm.trans e
    exact ((h.memRead .wire 0 24).writeHeader hd).complete hr .ok
  · cases (execHdrDec_fail hl).symm.trans e
    exact h.complete hr _

/-- FRM.ENC writes at most PAY_MAX + 36 bytes, because PAY_MAX is a multiple of 4 (R9, R142). -/
theorem execFrmEnc_inv {s t : State} (h : s.Inv) (hr : s.inReset = false)
    (e : execFrmEnc s = .next t) : t.Inv := by
  cases hv : s.frmHdrv with
  | false =>
    cases (execFrmEnc_fail hv).symm.trans e
    exact h.readFrame.complete hr _
  | true =>
    obtain ⟨out, -, hlen, e'⟩ := execFrmEnc_ok hv
    have hout : out.length ≤ Config.wireMax := by
      have hp := h.payLen_le
      have h4 := Config.payMax_mod
      have hc := ceil4_lt s.payLen.toNat
      have hc4 := ceil4_mod s.payLen.toNat
      rw [hlen, Config.wireMax_eq]; omega
    cases e'.symm.trans e
    exact ((h.readFrame.crcRelease.memWrite .wire (by rw [Nat.zero_add]; exact hout)).setWireLen
      hout).complete hr .ok

theorem execFrmDec_inv {s t : State} (h : s.Inv) (hr : s.inReset = false)
    (e : execFrmDec s = .next t) : t.Inv := by
  have hread := h.memRead .wire 0 s.wireLen.toNat
  rcases execFrmDec_cases s with ⟨st, -, -, e'⟩ | ⟨-, -, e'⟩ | ⟨-, f, -, -, hlen, -, e'⟩
  · cases e'.symm.trans e
    exact hread.complete hr _
  · cases e'.symm.trans e
    exact hread.crcRelease.complete hr _
  · have hf : f.payload.length ≤ Config.payMax := by
      have hw := h.wireLen_le
      rw [Config.wireMax_eq] at hw
      omega
    cases e'.symm.trans e
    exact (hread.crcRelease.writeFrame hf).complete (by simpa using hr) .ok

theorem execFipEnc_inv {s t : State} (h : s.Inv) (hr : s.inReset = false)
    (e : execFipEnc s = .next t) : t.Inv := by
  by_cases hv : s.fip.ver = Config.fipVersion
  · obtain ⟨b, -, hlen, e'⟩ := execFipEnc_ok hv
    have hw : 10 ≤ Config.wireMax := by rw [Config.wireMax_eq]; omega
    cases e'.symm.trans e
    exact ((h.memWrite .wire (by rw [hlen]; exact hw)).setWireLen hw).complete hr .ok
  · cases (execFipEnc_fail hv).symm.trans e
    exact h.complete hr _

theorem execFipDec_inv {s t : State} (h : s.Inv) (hr : s.inReset = false)
    (e : execFipDec s = .next t) : t.Inv := by
  have hread := h.memRead .wire 0 10
  rcases Nat.lt_or_ge s.wireLen.toNat 10 with hl | hl
  · cases (execFipDec_short hl).symm.trans e
    exact h.complete hr _
  · rcases execFipDec_cases hl with ⟨-, e'⟩ | ⟨-, f, -, e'⟩
    · cases e'.symm.trans e
      exact hread.complete hr _
    · cases e'.symm.trans e
      exact (hread.writeFip f).complete hr .ok

theorem exec_inv {i : Instr} {s t : State} (h : s.Inv) (hr : s.inReset = false)
    (e : exec i s = .next t) : t.Inv := by
  cases i with
  | hdrEnc => exact execHdrEnc_inv h hr e
  | hdrDec => exact execHdrDec_inv h hr e
  | frmEnc => exact execFrmEnc_inv h hr e
  | frmDec => exact execFrmDec_inv h hr e
  | fipEnc => exact execFipEnc_inv h hr e
  | fipDec => exact execFipDec_inv h hr e

theorem runWord_inv {w : Word} {s t : State} (h : s.Inv) (hr : s.inReset = false)
    (e : runWord w s = .next t) : t.Inv := by
  rcases runWord_cases w s with ⟨i, -, e'⟩ | ⟨_, -, e'⟩
  · exact exec_inv h hr (e'.symm.trans e)
  · cases e'.symm.trans e
    exact h.complete hr _

/-! ### Host writes keep the invariant -/

/-- A length register takes a value within its capacity only (R27, R28); no other register write touches what the invariant speaks of, out of reset. -/
theorem State.writeReg_inv {s t : State} {v : Word} {r : Reg} (h : s.Inv) (hr : s.inReset = false)
    (e : s.writeReg v r = .next t) : t.Inv := by
  have hle : (v.setWidth 17).toNat ≤ v.toNat := by
    rw [BitVec.toNat_setWidth]; exact Nat.mod_le _ _
  cases r with
  | cmd => cases e; exact h.withEngine hr _
  | wireLen =>
    simp only [State.writeReg] at e
    split at e
    · cases e; exact { h with wireLen_le := Nat.le_trans hle ‹_› }
    · cases e
  | payLen =>
    simp only [State.writeReg] at e
    split at e
    · cases e; exact { h with payLen_le := Nat.le_trans hle ‹_› }
    · cases e
  | _ => cases e; exact h.congr rfl rfl rfl rfl h.reset_idle

/-- Bases and capacities are multiples of 4, so a window word lies within its buffer (R9, R63). -/
theorem Buffer.word_within {buf : Buffer} {a k : Nat} (ha : a = buf.base + k) (h4 : a % 4 = 0)
    (hk : k < buf.capacity) : k + 4 ≤ buf.capacity := by
  have hp := Config.payMax_mod
  cases buf with
  | wire => simp only [Buffer.base, Buffer.capacity, Config.wireMax_eq] at *; omega
  | pay => simp only [Buffer.base, Buffer.capacity] at *; omega

/-- Settles O47, by the case analysis of a step: each operation a step is made of keeps the invariant. -/
theorem invariantKeptByEveryStep : Obligations.InvariantKeptByEveryStep := by
  intro s t h hstep
  have h' : State.Inv { s with inputs := s.inputs.tail } := h.congr rfl rfl rfl rfl h.reset_idle
  cases Transition.of_step hstep with
  | still d rs => exact h.congr rfl rfl rfl rfl h.reset_idle
  | regWrite r v hr hb hin e => exact State.writeReg_inv h' hr e
  | windowWrite a buf k v hr hb hin ha h4 hk => exact h'.memWrite buf (Buffer.word_within ha h4 hk)
  | reset b hin => exact h'.driveReset b
  | countDown w n hr he => exact h'.withEngine hr _
  | completion w n hr he hn e => exact runWord_inv h' hr e

end Sys2Proof.Machine
end

section
/-! PROOFS. The interface contract (O45), a host read of a register (O41), and the run of a command to its completion (O7). -/

namespace Sys2Proof.Machine

/-! ### The outcomes of a step -/

theorem refused_not_next {e : Refusal} :
    ¬ ∃ t : State, (.refused e : Host.Outcome State Fault Refusal) = .next t := by
  rintro ⟨t, h⟩
  cases h

/-- No step faults: it is refused exactly when it answers no next state (R206, R251). -/
theorem refused_iff_not_next (o : Host.Outcome State Fault Refusal) :
    (∃ e, o = .refused e) ↔ ¬ ∃ t, o = .next t := by
  cases o with
  | next t => exact iff_of_false (by rintro ⟨e, h⟩; cases h) (not_not_intro ⟨t, rfl⟩)
  | fault r => exact nomatch r
  | refused e => exact iff_of_true ⟨e, rfl⟩ refused_not_next

/-! ### When an access is within the contract -/

/-- An offset is mapped exactly when the address map, at a multiple of 4, answers something (R64, R65). -/
theorem mapped_iff (a : Addr) : Mapped a ↔ a.toNat % 4 = 0 ∧ ∃ t, target? a = some t := by
  rcases target?_cases a with ⟨r, rfl, ht⟩ | ⟨hreg, hwin⟩
  · exact ⟨fun _ => ⟨(Reg.offset_lt r).1, _, ht⟩, fun _ => .inl ⟨r, rfl⟩⟩
  · have hnot : ¬ ∃ r : Reg, r.offset = a := fun ⟨r, h⟩ => hreg r h
    rw [Mapped, or_iff_right hnot]
    rcases hwin with ⟨h1, h2, ht⟩ | ⟨h1, h2, ht⟩ | ⟨h1, h2, ht⟩
    · exact and_congr_right fun _ => ⟨fun _ => ⟨_, ht⟩, fun _ => .inl ⟨h1, h2⟩⟩
    · exact and_congr_right fun _ => ⟨fun _ => ⟨_, ht⟩, fun _ => .inr ⟨h1, h2⟩⟩
    · exact and_congr_right fun _ =>
        ⟨fun h => (not_or.2 ⟨h1, h2⟩ h).elim, fun ⟨_, h⟩ => nomatch ht.symm.trans h⟩

theorem State.checkAccess_isOk_iff (s : State) (bits : Nat) (a : Addr) :
    (∃ t, s.checkAccess bits a = .ok t) ↔ s.inReset = false ∧ bits = 32 ∧ Mapped a := by
  simp only [State.checkAccess_ok, mapped_iff, exists_and_left]

theorem State.hostRead_next_iff (s : State) (bits : Nat) (a : Addr) :
    (∃ t, s.hostRead bits a = .next t) ↔ s.InContract (.read bits a) := by
  rw [State.InContract, ← State.checkAccess_isOk_iff]
  rcases s.hostRead_cases bits a with ⟨e, hc, h⟩ | ⟨t, d, hc, h⟩
  · rw [hc, h]; exact iff_of_false refused_not_next nofun
  · exact ⟨fun _ => ⟨t, hc⟩, fun _ => ⟨_, h⟩⟩

/-- A register write is refused for a length above its buffer's capacity only (R27, R28). -/
theorem State.writeReg_next_iff (s : State) (v : Word) (r : Reg) :
    (∃ t, s.writeReg v r = .next t) ↔
      (r = .wireLen → v.toNat ≤ Config.wireMax) ∧ (r = .payLen → v.toNat ≤ Config.payMax) := by
  cases r with
  | wireLen =>
    by_cases hv : v.toNat ≤ Config.wireMax
    · exact ⟨fun _ => ⟨fun _ => hv, nofun⟩, fun _ => ⟨_, if_pos hv⟩⟩
    · exact ⟨fun ⟨_, h⟩ => (nomatch (if_neg hv).symm.trans h), fun h => absurd (h.1 rfl) hv⟩
  | payLen =>
    by_cases hv : v.toNat ≤ Config.payMax
    · exact ⟨fun _ => ⟨nofun, fun _ => hv⟩, fun _ => ⟨_, if_pos hv⟩⟩
    · exact ⟨fun ⟨_, h⟩ => (nomatch (if_neg hv).symm.trans h), fun h => absurd (h.2 rfl) hv⟩
  | _ => exact ⟨fun _ => ⟨nofun, nofun⟩, fun _ => ⟨_, rfl⟩⟩

theorem State.hostWrite_next_iff (s : State) (bits : Nat) (a : Addr) (v : Word) :
    (∃ t, s.hostWrite bits a v = .next t) ↔ s.InContract (.write bits a v) := by
  have hok : s.InContract (.write bits a v) → ∃ t, s.checkAccess bits a = .ok t :=
    fun ⟨hr, h32, hm, _⟩ => (s.checkAccess_isOk_iff bits a).2 ⟨hr, h32, hm⟩
  rcases s.hostWrite_cases bits a v with
    ⟨e, hc, h⟩ | ⟨hb, h⟩ | ⟨hb, r, hc, h⟩ | ⟨hb, buf, k, hc, h⟩
  · rw [h]
    refine iff_of_false refused_not_next fun hin => ?_
    obtain ⟨t, ht⟩ := hok hin
    cases hc.symm.trans ht
  · rw [h]
    refine iff_of_false refused_not_next fun ⟨_, _, _, hidle, _⟩ => ?_
    cases hidle.symm.trans hb
  · obtain ⟨hr, h32, hm⟩ := (s.checkAccess_isOk_iff bits a).1 ⟨_, hc⟩
    obtain ⟨-, -, -, ht⟩ := State.checkAccess_ok.1 hc
    obtain rfl := target?_eq_reg ht
    rw [h, State.writeReg_next_iff]
    exact ⟨fun ⟨hw, hp⟩ => ⟨hr, h32, hm, hb, fun e => hw (Reg.offset_injective e),
        fun e => hp (Reg.offset_injective e)⟩,
      fun ⟨_, _, _, _, hw, hp⟩ => ⟨fun e => hw (e ▸ rfl), fun e => hp (e ▸ rfl)⟩⟩
  · obtain ⟨hr, h32, hm⟩ := (s.checkAccess_isOk_iff bits a).1 ⟨_, hc⟩
    obtain ⟨-, -, -, ht⟩ := State.checkAccess_ok.1 hc
    have hne : ∀ r : Reg, a ≠ r.offset := fun r e => by
      rw [e, target?_offset] at ht; cases ht
    exact ⟨fun _ => ⟨hr, h32, hm, hb, fun e => absurd e (hne _), fun e => absurd e (hne _)⟩,
      fun _ => ⟨_, h⟩⟩

theorem State.hostAccess_next_iff (s : State) (acc : HostAccess) :
    (∃ t, s.hostAccess acc = .next t) ↔ s.InContract acc := by
  cases acc with
  | read bits a => exact s.hostRead_next_iff bits a
  | write bits a v => exact s.hostWrite_next_iff bits a v

/-! ### Steps without an access -/

theorem runWord_next (w : Word) (s : State) : ∃ t, runWord w s = .next t := by
  rcases runWord_cases w s with ⟨i, -, e⟩ | ⟨_, -, e⟩
  · obtain ⟨t, ht, -⟩ := exec_ends i s
    exact ⟨t, e.trans ht⟩
  · exact ⟨_, e⟩

theorem engineCycle_next (s : State) : ∃ t, engineCycle s = .next t := by
  rcases engineCycle_cases s with ⟨-, e⟩ | ⟨-, _, -, e⟩ | ⟨-, w, _, -, -, e⟩ | ⟨-, _, _, -, e⟩
  · exact ⟨_, e⟩
  · exact ⟨_, e⟩
  · obtain ⟨t, ht⟩ := runWord_next w s
    exact ⟨t, e.trans ht⟩
  · exact ⟨_, e⟩

/-- Settles O45: an access is served exactly within the contract, and neither a cycle nor the reset input is ever refused. -/
theorem refusedExactlyOutsideTheContract : Obligations.RefusedExactlyOutsideTheContract := by
  refine ⟨fun s acc rest hin => ?_, fun s hno => ?_⟩
  · have hnext : (∃ t, step s = .next t) ↔ s.InContract acc := by
      rw [step_cons hin]
      exact (State.hostAccess_next_iff { s with inputs := rest } acc).trans (by cases acc <;> rfl)
    exact ⟨hnext, (refused_iff_not_next _).trans (not_congr hnext)⟩
  · cases hin : s.inputs with
    | nil => rw [step_nil hin]; exact engineCycle_next s
    | cons ev rest =>
      rw [step_cons hin]
      match ev with
      | .access acc => exact absurd hin (hno acc rest)
      | .resetInput b => exact ⟨_, rfl⟩
      | .cycle => exact engineCycle_next _

/-! ### A host read -/

/-- A 32-bit read of a mapped offset out of reset is served: one reply more, and the free values it takes (R61, R67). -/
theorem step_read {s : State} {a : Addr} {rest : List HostEvent} {tg : Target}
    (hr : s.inReset = false) (hin : s.NextRead a rest) (h4 : a.toNat % 4 = 0)
    (ht : target? a = some tg) {v : Word} {d : Nat}
    (hread : State.readTarget { s with inputs := rest } tg =
      (v, State.setDraws { s with inputs := rest } d)) :
    step s = .next { s with
      inputs := rest, draws := d, replies := { addr := a, data := v } :: s.replies } := by
  have hc : State.checkAccess { s with inputs := rest } 32 a = .ok tg :=
    State.checkAccess_ok.2 ⟨hr, rfl, h4, ht⟩
  rw [step_cons hin]
  simp only [serve, State.hostAccess, State.hostRead, hc, hread]
  rfl

/-- While IDLE a register reads as its value and takes no free value (R61). -/
theorem State.readTarget_reg_of_idle {s : State} (hb : s.isBusy = false) (r : Reg) :
    s.readTarget (.reg r) = (s.readReg r, s) := by
  cases r <;> simp only [State.readTarget, hb, Bool.false_eq_true, if_false]

/-- Settles O41: a register's own offset reaches it, and a host read that is served takes free values only. -/
theorem hostReadReturnsTheRegister : Obligations.HostReadReturnsTheRegister := by
  refine ⟨fun s r rest hr hb hin => ?_, fun s t bits a rest hin hstep => ?_⟩
  · refine step_read hr hin (Reg.offset_lt r).1 (target?_offset r) ?_
    rw [State.readTarget_reg_of_idle (s := { s with inputs := rest }) hb, State.readReg_inputs]
    rfl
  · rw [step_cons hin] at hstep
    rcases State.hostRead_cases { s with inputs := rest } bits a with ⟨_, -, e⟩ | ⟨tg, d, -, e⟩
    · cases e.symm.trans hstep
    · cases e.symm.trans hstep
      exact ⟨_, rfl⟩

/-! ### The run of a command -/

/-- With no event left, a command with `n + 1` cycles left runs in the last of them, on the state it was counted down from. -/
theorem runSteps_countdown {s : State} {w : Word} {n : Nat} (hr : s.inReset = false)
    (hin : s.inputs = []) (he : s.engine = .busy w (n + 1)) :
    runSteps (n + 1) s = runWord w { s with engine := .busy w 1 } := by
  induction n generalizing s with
  | zero =>
    have hs : { s with engine := .busy w 1 } = s := by rw [← he]
    obtain ⟨t, ht⟩ := runWord_next w s
    have hstep : step s = .next t := by
      rw [step_nil hin, engineCycle_of_last hr he (Nat.le_refl 1), ht]
    rw [runSteps_succ_of_next hstep, runSteps_zero, hs, ht]
  | succ n ih =>
    have hstep : step s = .next { s with engine := .busy w (n + 1) } := by
      rw [step_nil hin, engineCycle_of_more hr he]
    rw [runSteps_succ_of_next hstep]
    exact ih hr hin rfl

/-- Settles O7: the write is accepted in one step, and LAT cycles count the command down. -/
theorem commandRunsToItsCompletion : Obligations.CommandRunsToItsCompletion := by
  intro s w hr hb hin
  have haccept : step s = .next (State.accept { s with inputs := [] } w) :=
    step_regWrite (r := .cmd) hr hb hin
  obtain ⟨n, hn⟩ := Nat.exists_eq_add_of_le' (Config.lat_bounds w (s.inputBytes w)).1
  rw [Nat.add_comm, runSteps_succ_of_next haccept, hn]
  exact runSteps_countdown hr rfl (congrArg (Engine.busy w) hn)

end Sys2Proof.Machine
end

section
/-! PROOFS. The words of the buffer windows (O42, O50). -/

namespace Sys2Proof.Machine

/-! ### The lanes of a window word -/

/-- Four bytes side by side, each in its lane: byte `i` in the eight bits from 24 - 8 * i on (R63). -/
theorem extractLsb'_append4 (b0 b1 b2 b3 : Byte) :
    (b0 ++ b1 ++ b2 ++ b3 : BitVec (8 + 8 + 8 + 8)).extractLsb' 24 8 = b0 ∧
    (b0 ++ b1 ++ b2 ++ b3 : BitVec (8 + 8 + 8 + 8)).extractLsb' 16 8 = b1 ∧
    (b0 ++ b1 ++ b2 ++ b3 : BitVec (8 + 8 + 8 + 8)).extractLsb' 8 8 = b2 ∧
    (b0 ++ b1 ++ b2 ++ b3 : BitVec (8 + 8 + 8 + 8)).extractLsb' 0 8 = b3 := by
  refine ⟨?_, ?_, ?_, ?_⟩
  · rw [BitVec.extractLsb'_append_eq_of_le (by omega), BitVec.extractLsb'_append_eq_of_le (by omega),
      BitVec.extractLsb'_append_eq_of_le (by omega), BitVec.extractLsb'_eq_self]
  · rw [BitVec.extractLsb'_append_eq_of_le (by omega), BitVec.extractLsb'_append_eq_of_le (by omega),
      BitVec.extractLsb'_append_eq_of_add_le (by omega), BitVec.extractLsb'_eq_self]
  · rw [BitVec.extractLsb'_append_eq_of_le (by omega),
      BitVec.extractLsb'_append_eq_of_add_le (by omega), BitVec.extractLsb'_eq_self]
  · rw [BitVec.extractLsb'_append_eq_of_add_le (by omega), BitVec.extractLsb'_eq_self]

/-- The lane of byte `i` in the word that four bytes read big-endian make (R11, R63). -/
theorem extractLsb'_unbe4 {b : Bytes} (hb : b.length = 4) {i : Nat} (hi : i < 4) :
    b[i]? = some ((BitVec.ofNat 32 (unbe b)).extractLsb' (24 - 8 * i) 8) := by
  match b, hb with
  | [b0, b1, b2, b3], _ =>
    obtain ⟨h0, h1, h2, h3⟩ := extractLsb'_append4 b0 b1 b2 b3
    rw [ofNat_unbe4]
    match i, hi with
    | 0, _ => exact congrArg some h0.symm
    | 1, _ => exact congrArg some h1.symm
    | 2, _ => exact congrArg some h2.symm
    | 3, _ => exact congrArg some h3.symm

/-! ### The free values that a read of many bytes takes -/

/-- How many of the `n` bytes from offset `off` on nothing has written since reset (R41). -/
def Memory.unwritten (m : Memory) (off n : Nat) : Nat :=
  ((List.range n).filter fun j => (m.byteAt? (off + j)).isNone).length

/-- The bytes of a range that nothing has written, counted from the first byte on. -/
theorem Memory.unwritten_succ (m : Memory) (off n : Nat) :
    m.unwritten off (n + 1) =
      (if (m.byteAt? off).isNone then 1 else 0) + m.unwritten (off + 1) n := by
  simp only [unwritten, ← List.countP_eq_length_filter, List.range_succ_eq_map, List.countP_cons,
    List.countP_map, Function.comp_def, Nat.succ_eq_add_one, Nat.add_zero, Nat.add_right_comm off 1,
    ← Nat.add_assoc]
  exact Nat.add_comm _ _

/-- A read takes one free value for each byte that nothing has written. -/
theorem Memory.readAll_snd (m : Memory) (off n d : Nat) :
    (m.readAll off n d).2 = d + m.unwritten off n := by
  induction n generalizing off d with
  | zero => rfl
  | succ n ih =>
    rw [unwritten_succ]
    cases hb : m.byteAt? off with
    | some b => simp [readAll, hb, ih]
    | none => simp [readAll, hb, ih, Nat.add_assoc]

/-- Byte `i` of a read is the byte written there, or the free value after those of the bytes before it (R41). -/
theorem Memory.readAll_fst_getElem? (m : Memory) (off n d i : Nat) (hi : i < n) :
    (m.readAll off n d).1[i]? =
      some ((m.byteAt? (off + i)).getD (Config.freeByte (d + m.unwritten off i))) := by
  induction n generalizing off d i with
  | zero => omega
  | succ n ih =>
    cases i with
    | zero => cases hb : m.byteAt? off <;> simp [readAll, hb, unwritten]
    | succ i =>
      have hoff : off + (i + 1) = off + 1 + i := by omega
      rw [unwritten_succ, hoff]
      cases hb : m.byteAt? off with
      | some b => simp [readAll, hb, ih _ _ i (by omega)]
      | none => simp [readAll, hb, ih _ _ i (by omega), Nat.add_assoc]

/-! ### A host access to a window -/

/-- The two windows by their numbers (R9, R23): a buffer's base and capacity. -/
theorem Buffer.base_capacity_of {buf : Buffer} {base cap : Nat}
    (h : (buf = .wire ∧ base = 0x10000 ∧ cap = Config.wireMax) ∨
      (buf = .pay ∧ base = 0x20000 ∧ cap = Config.payMax)) :
    base = buf.base ∧ cap = buf.capacity := by
  obtain ⟨rfl, rfl, rfl⟩ | ⟨rfl, rfl, rfl⟩ := h
  · exact ⟨rfl, rfl⟩
  · exact ⟨rfl, rfl⟩

theorem State.buf_inputs (s : State) (ins : List HostEvent) (buf : Buffer) :
    State.buf { s with inputs := ins } buf = s.buf buf := by
  cases buf <;> rfl

/-- A window write while IDLE and out of reset is within the contract, and is served. -/
theorem step_windowWrite {s : State} {buf : Buffer} {k : Nat} {v : Word} {rest : List HostEvent}
    (h4 : k % 4 = 0) (hk : k < buf.capacity) (hr : s.inReset = false) (hb : s.isBusy = false)
    (hin : s.NextWrite (BitVec.ofNat 18 (buf.base + k)) v rest) :
    step s = .next (State.memWrite { s with inputs := rest } buf k (be32 v)) := by
  obtain ⟨ha, ht⟩ := target?_window buf k hk h4
  have hc : State.checkAccess { s with inputs := rest } 32 (BitVec.ofNat 18 (buf.base + k)) =
      .ok (.window buf k) := State.checkAccess_ok.2 ⟨hr, rfl, ha, ht⟩
  have hb' : State.isBusy { s with inputs := rest } = false := hb
  rw [step_cons hin]
  simp only [serve, State.hostAccess, State.hostWrite, hc, hb', Bool.false_eq_true, if_false]

/-- A window read while IDLE and out of reset replies with the four bytes that the buffer reads there, big-endian. -/
theorem step_windowRead {s : State} {buf : Buffer} {k : Nat} {rest : List HostEvent}
    (h4 : k % 4 = 0) (hk : k < buf.capacity) (hr : s.inReset = false) (hb : s.isBusy = false)
    (hin : s.NextRead (BitVec.ofNat 18 (buf.base + k)) rest) {bytes : Bytes} {d : Nat}
    (hread : (s.buf buf).readAll k 4 s.draws = (bytes, d)) :
    step s = .next { s with
      inputs := rest, draws := d,
      replies := { addr := BitVec.ofNat 18 (buf.base + k), data := BitVec.ofNat 32 (unbe bytes) } ::
        s.replies } := by
  obtain ⟨ha, ht⟩ := target?_window buf k hk h4
  have hb' : State.isBusy { s with inputs := rest } = false := hb
  refine step_read hr hin ha ht ?_
  simp only [State.readTarget, hb', Bool.false_eq_true, if_false, State.readWindow, State.memRead,
    State.buf_inputs, hread]

/-- The four bytes of a window word after a write of it, and every other byte of the buffer (R63). -/
theorem Memory.byteAt?_putAll_be32 (m : Memory) (k : Nat) (v : Word) :
    (m.putAll k (be32 v)).byteAt? k = some (v.extractLsb' 24 8) ∧
    (m.putAll k (be32 v)).byteAt? (k + 1) = some (v.extractLsb' 16 8) ∧
    (m.putAll k (be32 v)).byteAt? (k + 2) = some (v.extractLsb' 8 8) ∧
    (m.putAll k (be32 v)).byteAt? (k + 3) = some (v.extractLsb' 0 8) ∧
    ∀ j, j < k ∨ k + 4 ≤ j → (m.putAll k (be32 v)).byteAt? j = m.byteAt? j := by
  have hlane : ∀ i < 4, (m.putAll k (be32 v)).byteAt? (k + i) = (be32 v)[i]? := fun i hi => by
    rw [byteAt?_putAll, be32_length, if_pos (by omega), Nat.add_sub_cancel_left]
  refine ⟨hlane 0 (by omega), hlane 1 (by omega), hlane 2 (by omega), hlane 3 (by omega), ?_⟩
  intro j hj
  rw [byteAt?_putAll, be32_length, if_neg (by omega)]

/-- Settles O42: both accesses reach the four bytes from k on, and a word is its bytes big-endian. -/
theorem windowWordLanes : Obligations.WindowWordLanes := by
  intro buf base cap hbuf s k v rest h4 hk hr hb
  obtain ⟨rfl, rfl⟩ := Buffer.base_capacity_of hbuf
  refine ⟨fun hin => ?_, fun b0 b1 b2 b3 hin h0 h1 h2 h3 => ?_⟩
  · refine ⟨_, step_windowWrite h4 hk hr hb hin, ?_⟩
    rw [State.buf_memWrite_self, State.buf_inputs]
    obtain ⟨l0, l1, l2, l3, hframe⟩ := (s.buf buf).byteAt?_putAll_be32 k v
    exact ⟨l0, l1, l2, l3, hframe, by rw [State.memWrite, State.buf_inputs]⟩
  · have hread : (s.buf buf).readAll k 4 s.draws = ([b0, b1, b2, b3], s.draws) :=
      Memory.readAll_of_written _ k s.draws [b0, b1, b2, b3] fun i hi => by
        match i, hi with
        | 0, _ => exact h0
        | 1, _ => exact h1
        | 2, _ => exact h2
        | 3, _ => exact h3
    rw [step_windowRead h4 hk hr hb hin hread, ofNat_unbe4]

/-- Settles O50: the word read is the four bytes of the buffer's read, lane by lane. -/
theorem windowReadsDrawUnwrittenBytes : Obligations.WindowReadsDrawUnwrittenBytes := by
  intro buf base cap hbuf s k rest h4 hk hr hb hin
  obtain ⟨rfl, rfl⟩ := Buffer.base_capacity_of hbuf
  let r := (s.buf buf).readAll k 4 s.draws
  have hread : r = (r.1, s.draws + (s.buf buf).unwritten k 4) :=
    Prod.ext rfl (Memory.readAll_snd _ k 4 s.draws)
  refine ⟨_, step_windowRead h4 hk hr hb hin hread, fun i hi => ?_⟩
  have hlane := extractLsb'_unbe4 (b := r.1) (Memory.readAll_length _ k 4 s.draws) hi
  have hbyte := Memory.readAll_fst_getElem? (s.buf buf) k 4 s.draws i hi
  exact Option.some.inj (hlane.symm.trans hbyte)

end Sys2Proof.Machine
end

section
/-! PROOFS. The decoder and the encoder of command words agree (O3, O4), and a word that selects no command completes with BAD_OP (O11). -/

namespace Sys2Proof

theorem toOption_eq_some_iff {ε α : Type} (x : Except ε α) (a : α) :
    x.toOption = some a ↔ x = .ok a := by
  cases x with
  | error e => exact iff_of_false nofun nofun
  | ok b => exact ⟨fun h => congrArg Except.ok (Option.some.inj h), fun h => h ▸ rfl⟩

/-- The OP field of the table selects its own command, and no other field does (R81, R83). -/
theorem decodeOp_eq_ok_iff (op : BitVec 3) (i : Instr) : decodeOp op = .ok i ↔ op = i.op := by
  rw [← toOption_eq_some_iff]
  cases i <;> revert op <;> decide

/-- A word selects a command when RES is zero and OP is the command's (R81, R82). -/
theorem decodeCmd_eq_ok_iff (w : Word) (i : Instr) :
    decodeCmd w = .ok i ↔ w.extractLsb' 3 29 = 0#29 ∧ w.extractLsb' 0 3 = i.op := by
  unfold decodeCmd
  split
  next hres => rw [decodeOp_eq_ok_iff, and_iff_right hres]
  next hres => exact iff_of_false nofun fun h => hres h.1

/-- A word is a command's encoding when its two fields are (R80). -/
theorem eq_encode_iff (w : Word) (i : Instr) :
    w = encode i ↔ w.extractLsb' 3 29 = 0#29 ∧ w.extractLsb' 0 3 = i.op := by
  refine ⟨fun h => ?_, fun ⟨hres, hop⟩ => ?_⟩
  · subst h
    exact ⟨BitVec.extractLsb'_append_eq_left, BitVec.extractLsb'_append_eq_right⟩
  · have hw : w.extractLsb' 3 29 ++ w.extractLsb' 0 3 = w :=
      BitVec.extractLsb'_append_extractLsb' (w := 29) (len := 3)
    rw [← hw, hres, hop]
    rfl

theorem decodeCmd_eq_ok_iff_eq_encode (w : Word) (i : Instr) :
    decodeCmd w = .ok i ↔ w = encode i :=
  (decodeCmd_eq_ok_iff w i).trans (eq_encode_iff w i).symm

/-- No command has a reserved OP field (R81, R83). -/
theorem Instr.op_not_reserved (i : Instr) : i.op ≠ 0#3 ∧ i.op ≠ 7#3 := by
  cases i <;> decide

/-- Settles O3: both sides say that RES is zero and OP is the command's. -/
theorem decodeMatchesTheCommandTable : Obligations.DecodeMatchesTheCommandTable :=
  ⟨decodeCmd_eq_ok_iff_eq_encode, rfl, rfl, rfl, rfl, rfl, rfl⟩

/-- Settles O4: a command's word is its encoding, and a reserved word is decoded field by field. -/
theorem commandWordsDecode : Obligations.CommandWordsDecode := by
  have hok : ∀ {w : Word} {i : Instr}, w = encode i → decodeCmd w = .ok i :=
    fun h => (decodeCmd_eq_ok_iff_eq_encode _ _).2 h
  exact ⟨hok rfl, hok rfl, hok rfl, hok rfl, hok rfl, hok rfl, rfl, rfl, rfl, rfl, rfl, rfl⟩

namespace Machine

/-- A word with RES set or a reserved OP completes with BAD_OP (R82, R83). -/
theorem runWord_of_reserved {w : Word}
    (h : w.extractLsb' 3 29 ≠ 0#29 ∨ w.extractLsb' 0 3 = 0#3 ∨ w.extractLsb' 0 3 = 7#3) (s : State) :
    runWord w s = .next (s.complete .badOp) := by
  rcases runWord_cases w s with ⟨i, hi, -⟩ | ⟨_, -, e⟩
  · obtain ⟨hres, hop⟩ := (decodeCmd_eq_ok_iff w i).1 hi
    obtain ⟨h0, h7⟩ := i.op_not_reserved
    rw [hop] at h
    rcases h with h | h | h
    · exact absurd hres h
    · exact absurd h h0
    · exact absurd h h7
  · exact e

/-- Settles O11: the step is the last cycle of the word. -/
theorem reservedWordsCompleteWithBadOp : Obligations.ReservedWordsCompleteWithBadOp := by
  intro s w n hw hr he hn hin
  refine ⟨s.complete .badOp, ?_, rfl, rfl⟩
  rw [step_nil hin, engineCycle_of_last hr he hn, runWord_of_reserved hw]

end Machine

end Sys2Proof
end

section
/-! PROOFS. A command under host reads: it stays BUSY for LAT cycles, and completes as it would without them (O49). -/

namespace Sys2Proof.Machine

/-! ### A host read while BUSY -/

/-- While BUSY every read takes free values at most, and STATUS reads as BUSY and takes none (R241). -/
theorem State.readTarget_of_busy {s : State} {w : Word} {n : Nat} (he : s.engine = .busy w n)
    (tg : Target) :
    ∃ v d, s.readTarget tg = (v, s.setDraws d) ∧
      (tg = .reg .status → v = 0x00000001#32 ∧ d = s.draws) := by
  by_cases htg : tg = .reg .status
  · subst htg
    have hv : s.statusWord = 0x00000001#32 := by simp [he]
    exact ⟨s.statusWord, s.draws, rfl, fun _ => ⟨hv, rfl⟩⟩
  · obtain ⟨d, hd⟩ := s.readTarget_snd tg
    exact ⟨_, d, Prod.ext rfl hd, fun h => absurd h htg⟩

/-- While BUSY and out of reset, a 32-bit read of a mapped offset gives one reply more and changes the free values taken at most. -/
theorem step_read_of_busy {s : State} {w : Word} {n : Nat} {a : Addr} {rest : List HostEvent}
    (hr : s.inReset = false) (he : s.engine = .busy w n) (hin : s.NextRead a rest) (hm : Mapped a) :
    ∃ v d, step s = .next { s with
        inputs := rest, draws := d, replies := { addr := a, data := v } :: s.replies } ∧
      (a = 0x00004#18 → v = 0x00000001#32 ∧ d = s.draws) := by
  obtain ⟨h4, tg, ht⟩ := (mapped_iff a).1 hm
  obtain ⟨v, d, hread, hstatus⟩ := State.readTarget_of_busy (s := { s with inputs := rest }) he tg
  refine ⟨v, d, step_read hr hin h4 ht hread, fun ha => hstatus ?_⟩
  have hst : target? a = some (.reg .status) := ha ▸ target?_offset .status
  exact Option.some.inj (ht.symm.trans hst)

/-! ### Runs -/

theorem runSteps_add {s t : State} {j : Nat} (h : runSteps j s = .next t) (k : Nat) :
    runSteps (j + k) s = runSteps k t := by
  induction j generalizing s with
  | zero => cases h; rw [Nat.zero_add]
  | succ j ih =>
    cases hs : step s with
    | next u =>
      rw [runSteps_succ_of_next hs] at h
      rw [Nat.add_right_comm, runSteps_succ_of_next hs, ih h]
    | fault r => exact nomatch r
    | refused r => exact nomatch (runSteps_succ_of_refused hs j).symm.trans h

theorem runSteps_one (s : State) : runSteps 1 s = step s := by
  rw [runSteps]
  cases step s <;> rfl

theorem runSteps_concat {s t : State} {j : Nat} (h : runSteps j s = .next t) :
    runSteps (j + 1) s = step t :=
  (runSteps_add h 1).trans (runSteps_one t)

/-! ### The events of a wait loop -/

/-- What the host does while it waits: a cycle passes, or it reads a mapped offset (R90). -/
def WaitEvent (e : HostEvent) : Prop :=
  e = .cycle ∨ ∃ a, e = .access (.read 32 a) ∧ Mapped a

theorem count_cycle_concat_cycle (es : List HostEvent) :
    (es ++ [HostEvent.cycle]).count .cycle = es.count .cycle + 1 := by
  rw [List.count_append, List.count_singleton_self]

theorem count_cycle_concat_access (es : List HostEvent) (acc : HostAccess) :
    (es ++ [HostEvent.access acc]).count .cycle = es.count .cycle := by
  simp

/-- `rs` can be the replies to the reads among the events `es` while BUSY, newest first, with `d₀` free values taken before them and `d` after (R241). -/
structure WaitReplies (es : List HostEvent) (d₀ d : Nat) (rs : List HostReply) : Prop where
  length : rs.length + es.count .cycle = es.length
  status : ∀ r ∈ rs, r.addr = 0x00004#18 → r.data = 0x00000001#32
  draws  : (∀ e ∈ es, e = .cycle ∨ e = .access (.read 32 0x00004#18)) → d = d₀

theorem WaitReplies.nil (d : Nat) : WaitReplies [] d d [] :=
  { length := rfl, status := nofun, draws := fun _ => rfl }

/-- A cycle gives no reply. -/
theorem WaitReplies.cycle {es : List HostEvent} {d₀ d : Nat} {rs : List HostReply}
    (h : WaitReplies es d₀ d rs) : WaitReplies (es ++ [.cycle]) d₀ d rs where
  length := by
    have hlen := h.length
    rw [count_cycle_concat_cycle, List.length_append, List.length_singleton]
    omega
  status := h.status
  draws hpoll := h.draws fun e he => hpoll e (List.mem_append_left _ he)

/-- A read gives one reply more. -/
theorem WaitReplies.read {es : List HostEvent} {d₀ d d' : Nat} {rs : List HostReply} {a : Addr}
    {v : Word} (h : WaitReplies es d₀ d rs)
    (hstatus : a = 0x00004#18 → v = 0x00000001#32 ∧ d' = d) :
    WaitReplies (es ++ [.access (.read 32 a)]) d₀ d' ({ addr := a, data := v } :: rs) where
  length := by
    have hlen := h.length
    rw [count_cycle_concat_access, List.length_append, List.length_singleton, List.length_cons]
    omega
  status r hr ha := by
    rcases List.mem_cons.1 hr with rfl | hr
    · exact (hstatus ha).1
    · exact h.status r hr ha
  draws hpoll := by
    have ha : a = 0x00004#18 := by
      rcases hpoll _ (List.mem_append_right es (List.mem_singleton_self _)) with e | e
      · cases e
      · cases e; rfl
    exact (hstatus ha).2.trans (h.draws fun e he => hpoll e (List.mem_append_left _ he))

/-- Every list of events has replies of the right number. -/
theorem exists_waitReplies (es : List HostEvent) (d : Nat) : ∃ rs, WaitReplies es d d rs := by
  have hle : es.count .cycle ≤ es.length := List.count_le_length
  refine ⟨List.replicate (es.length - es.count .cycle) ⟨0x00000#18, 0#32⟩, ?_, ?_, fun _ => rfl⟩
  · rw [List.length_replicate]; omega
  · intro r hr ha
    rw [List.eq_of_mem_replicate hr] at ha
    exact absurd ha (by decide)

/-- A cycle that is not the last one counts the command down. -/
theorem step_cycle_of_more {s : State} {w : Word} {n : Nat} {rest : List HostEvent}
    (hr : s.inReset = false) (he : s.engine = .busy w n) (hn : 1 < n)
    (hin : s.inputs = .cycle :: rest) :
    step s = .next { s with inputs := rest, engine := .busy w (n - 1) } := by
  obtain ⟨m, rfl⟩ := Nat.exists_eq_add_of_le' hn
  rw [step_cons hin]
  exact engineCycle_of_more (s := { s with inputs := rest }) hr he

/-- The last cycle runs the latched word. -/
theorem step_cycle_of_last {s : State} {w : Word} {rest : List HostEvent}
    (hr : s.inReset = false) (he : s.engine = .busy w 1) (hin : s.inputs = .cycle :: rest) :
    step s = runWord w { s with inputs := rest } := by
  rw [step_cons hin]
  exact engineCycle_of_last (s := { s with inputs := rest }) hr he (Nat.le_refl 1)

/-- The state of a wait: BUSY with `left` cycles to go, `rest` to follow, and otherwise `s` but for the free values taken and the replies. -/
def State.waiting (s : State) (rest : List HostEvent) (w : Word) (left d : Nat)
    (rs : List HostReply) : State :=
  { s with inputs := rest, engine := .busy w left, draws := d, replies := rs ++ s.replies }

/-- With fewer cycles among the events than the command has left, the command stays BUSY and is counted down, and the reads change the replies and the free values taken only: by induction on the events from the last one back, since the newest reply stands first. -/
theorem runSteps_wait {s : State} {w : Word} {n : Nat} {es rest : List HostEvent}
    (hr : s.inReset = false) (he : s.engine = .busy w n) (hin : s.inputs = es ++ rest)
    (hes : ∀ e ∈ es, WaitEvent e) (hn : es.count .cycle < n) :
    ∃ d rs, WaitReplies es s.draws d rs ∧
      runSteps es.length s = .next (s.waiting rest w (n - es.count .cycle) d rs) := by
  obtain ⟨l, rfl⟩ : ∃ l : List HostEvent, es = l.reverse := ⟨es.reverse, es.reverse_reverse.symm⟩
  induction l generalizing rest with
  | nil =>
    have hs : s = s.waiting rest w n s.draws [] := by
      rw [State.waiting, ← he, ← show s.inputs = rest from hin]; rfl
    exact ⟨s.draws, [], .nil _, congrArg Host.Outcome.next hs⟩
  | cons e l ih =>
    rw [List.reverse_cons] at hin hes hn ⊢
    generalize l.reverse = es at ih hin hes hn ⊢
    have hes' : ∀ e ∈ es, WaitEvent e := fun e he => hes e (List.mem_append_left _ he)
    rw [List.append_assoc] at hin
    rw [List.length_append, List.length_singleton]
    rcases hes e (List.mem_append_right es (List.mem_singleton_self e)) with rfl | ⟨a, rfl, hm⟩
    · rw [count_cycle_concat_cycle] at hn ⊢
      obtain ⟨d, rs, hrs, hrun⟩ := ih hin hes' (by omega)
      have hmore : 1 < n - es.count .cycle := by omega
      refine ⟨d, rs, hrs.cycle, (runSteps_concat hrun).trans ?_⟩
      exact step_cycle_of_more hr rfl hmore rfl
    · rw [count_cycle_concat_access] at hn ⊢
      obtain ⟨d, rs, hrs, hrun⟩ := ih hin hes' hn
      obtain ⟨v, d', hstep, hstatus⟩ := step_read_of_busy (s := s.waiting _ w _ d rs) hr rfl rfl hm
      exact ⟨d', _, hrs.read hstatus, (runSteps_concat hrun).trans hstep⟩

/-- The write of CMD is served as the acceptance of the word. -/
theorem step_acceptWrite {s : State} {w : Word} {rest : List HostEvent} (hr : s.inReset = false)
    (hb : s.isBusy = false) (hin : s.NextWrite 0x00000#18 w rest) :
    step s = .next (State.accept { s with inputs := rest } w) :=
  step_regWrite (r := .cmd) hr hb hin

/-- The write of CMD and a wait in which fewer than LAT cycles pass. -/
theorem runSteps_accept_wait {s : State} {w : Word} {es rest : List HostEvent}
    (hr : s.inReset = false) (hb : s.isBusy = false) (hin : s.NextWrite 0x00000#18 w (es ++ rest))
    (hes : ∀ e ∈ es, WaitEvent e) (hn : es.count .cycle < Config.lat w (s.inputBytes w)) :
    ∃ d rs, WaitReplies es s.draws d rs ∧
      runSteps (1 + es.length) s =
        .next (s.waiting rest w (Config.lat w (s.inputBytes w) - es.count .cycle) d rs) := by
  obtain ⟨d, rs, hrs, hrun⟩ :=
    runSteps_wait (s := State.accept { s with inputs := es ++ rest } w) hr rfl rfl hes hn
  refine ⟨d, rs, hrs, ?_⟩
  rw [Nat.add_comm, runSteps_succ_of_next (step_acceptWrite hr hb hin)]
  exact hrun

/-- The write of CMD and a wait whose last event is the last of LAT cycles. -/
theorem runSteps_accept_complete {s : State} {w : Word} {es rest : List HostEvent}
    (hr : s.inReset = false) (hb : s.isBusy = false)
    (hin : s.NextWrite 0x00000#18 w (es ++ [HostEvent.cycle] ++ rest)) (hes : ∀ e ∈ es, WaitEvent e)
    (hn : es.count .cycle + 1 = Config.lat w (s.inputBytes w)) :
    ∃ d rs, WaitReplies (es ++ [.cycle]) s.draws d rs ∧
      runSteps (1 + (es ++ [HostEvent.cycle]).length) s = runWord w (s.waiting rest w 1 d rs) := by
  rw [List.append_assoc] at hin
  obtain ⟨d, rs, hrs, hrun⟩ := runSteps_accept_wait hr hb hin hes (by omega)
  have hlast : Config.lat w (s.inputBytes w) - es.count .cycle = 1 := by omega
  rw [hlast] at hrun
  refine ⟨d, rs, hrs.cycle, ?_⟩
  rw [List.length_append, List.length_singleton, ← Nat.add_assoc, runSteps_concat hrun]
  exact step_cycle_of_last hr rfl rfl

/-- Settles O49: the two runs are those above, and of any other events the statement says no more than that such replies exist. -/
theorem commandRunsUnderTheWaitLoop : Obligations.CommandRunsUnderTheWaitLoop := by
  intro s w es rest hr hb hin hes lat cycles
  by_cases hlt : cycles < lat
  · obtain ⟨d, rs, hrs, hrun⟩ := runSteps_accept_wait hr hb hin hes hlt
    exact ⟨d, rs, hrs.length, hrs.status, hrs.draws, fun _ => ⟨_, hrun, rfl, rfl⟩,
      fun heq => absurd heq (Nat.ne_of_lt hlt)⟩
  by_cases hlast : cycles = lat ∧ es.getLast? = some .cycle
  · obtain ⟨heq, hend⟩ := hlast
    obtain ⟨es', rfl⟩ := List.getLast?_eq_some_iff.1 hend
    obtain ⟨d, rs, hrs, hrun⟩ := runSteps_accept_complete hr hb hin
      (fun e he => hes e (List.mem_append_left _ he)) ((count_cycle_concat_cycle es').symm.trans heq)
    exact ⟨d, rs, hrs.length, hrs.status, hrs.draws, fun h => absurd h hlt, fun _ _ => hrun⟩
  · obtain ⟨rs, hrs⟩ := exists_waitReplies es s.draws
    exact ⟨s.draws, rs, hrs.length, hrs.status, hrs.draws, fun h => absurd h hlt,
      fun heq hend => absurd ⟨heq, hend⟩ hlast⟩

end Sys2Proof.Machine
end

section
/-! PROOFS. The CRC32 generator (O31 to O33): one shift bit by bit, the step as an injection in the accumulator and in the byte, the reflected form of R105, and the check values. -/

namespace Sys2Proof.Machine

/-! ### One shift, bit by bit -/

/-- The bit that leaves at the right decides whether the polynomial is added (R102). -/
theorem crcShift_getLsbD (acc : Word) (i : Nat) :
    (crcShift acc).getLsbD i =
      (acc.getLsbD (i + 1) ^^ (acc.getLsbD 0 && crcPoly.getLsbD i)) := by
  unfold crcShift
  split
  case isTrue h =>
    simp only [BitVec.getLsbD_xor, BitVec.getLsbD_ushiftRight, Nat.add_comm, h, Bool.true_and]
  case isFalse h =>
    simp only [BitVec.getLsbD_ushiftRight, Nat.add_comm, h, Bool.false_and, Bool.xor_false]

/-- The polynomial's bit 31 is set and the shift leaves a 0 there, so the bit that left comes back as the top bit. -/
theorem crcShift_getLsbD_top (acc : Word) : (crcShift acc).getLsbD 31 = acc.getLsbD 0 := by
  have htop : crcPoly.getLsbD 31 = true := by decide
  rw [crcShift_getLsbD, htop, BitVec.getLsbD_of_ge acc (31 + 1) (Nat.le_refl 32), Bool.and_true,
    Bool.false_xor]

/-! ### No information is lost -/

/-- The top bit of the result tells whether the polynomial was added; taking it off again gives back the other bits. -/
theorem crcShift_injective : Function.Injective crcShift := by
  intro a b h
  have hlow : a.getLsbD 0 = b.getLsbD 0 := by
    rw [← crcShift_getLsbD_top a, h, crcShift_getLsbD_top]
  refine BitVec.eq_of_getLsbD_eq fun i _ => ?_
  cases i with
  | zero => exact hlow
  | succ i =>
    have hi := congrArg (·.getLsbD i) h
    simpa only [crcShift_getLsbD, hlow, Bool.xor_left_inj] using hi

/-- The byte enters the XOR whole: its low eight bits are the byte. -/
theorem byte_setWidth_injective : Function.Injective fun b : Byte => b.setWidth 32 :=
  Function.LeftInverse.injective (g := (·.setWidth 8)) fun b => by
    simp only [BitVec.setWidth_setWidth_of_le b (by decide : 8 ≤ 32), BitVec.setWidth_eq]

/-- crcByte is eight shifts after its XOR (R102). -/
theorem crcStep_eq_repeat (acc : Word) (b : Byte) :
    crcStep acc b = Nat.repeat crcShift 8 (acc ^^^ b.setWidth 32) := rfl

theorem repeat_crcShift_injective (n : Nat) : Function.Injective (Nat.repeat crcShift n) := by
  induction n with
  | zero => exact Function.injective_id
  | succ n ih => exact crcShift_injective.comp ih

theorem crcStep_injective_acc (b : Byte) : Function.Injective (crcStep · b) := by
  intro x y h
  simp only [crcStep_eq_repeat] at h
  exact (BitVec.xor_left_inj _).1 (repeat_crcShift_injective 8 h)

theorem crcStep_injective_byte (acc : Word) : Function.Injective (crcStep acc) := by
  intro x y h
  simp only [crcStep_eq_repeat] at h
  exact byte_setWidth_injective ((BitVec.xor_right_inj _).1 (repeat_crcShift_injective 8 h))

/-- Two accumulators that differ stay different whatever bytes follow. -/
theorem foldl_crcStep_injective (d : Bytes) : Function.Injective (d.foldl crcStep ·) := by
  induction d with
  | nil => exact Function.injective_id
  | cons b d ih => exact ih.comp (crcStep_injective_acc b)

/-- The bytes before position k lead to one accumulator, byte k enters it, and the bytes after it follow. -/
theorem foldl_crcStep_set (acc : Word) (d : Bytes) {k : Nat} (hk : k < d.length) (v : Byte) :
    (d.set k v).foldl crcStep acc =
      (d.drop (k + 1)).foldl crcStep (crcStep ((d.take k).foldl crcStep acc) v) := by
  rw [List.set_eq_take_append_cons_drop, if_pos hk, foldl_crcStep_append, List.foldl_cons]

/-- Any change of one byte is detected, not only that of one bit. -/
theorem crc32_set_injective (d : Bytes) {k : Nat} (hk : k < d.length) :
    Function.Injective fun v => crc32 (d.set k v) := by
  intro v w h
  have hfold := (BitVec.xor_left_inj crcOnes).1 h
  rw [foldl_crcStep_set _ d hk, foldl_crcStep_set _ d hk] at hfold
  exact crcStep_injective_byte _ (foldl_crcStep_injective _ hfold)

theorem set_byteAt_self (d : Bytes) {k : Nat} (hk : k < d.length) : d.set k (byteAt d k) = d := by
  rw [byteAt, List.getD_eq_getElem?_getD, List.getElem?_eq_getElem hk, Option.getD_some,
    List.set_getElem_self]

/-! ### The reflected form (R105) -/

theorem reverse_xor {w : Nat} (x y : BitVec w) : (x ^^^ y).reverse = x.reverse ^^^ y.reverse := by
  refine BitVec.eq_of_getElem_eq fun i hi => ?_
  simp [BitVec.getElem_reverse]

theorem reverse_ushiftRight {w : Nat} (x : BitVec w) (n : Nat) :
    (x >>> n).reverse = x.reverse <<< n := by
  refine BitVec.eq_of_getElem_eq fun i hi => ?_
  simp [BitVec.getElem_reverse, hi]

/-! ### The obligations -/

/-- Settles O32: reversal turns the right shift into a left shift, the lowest bit into the highest, and the polynomial into its normal form. -/
theorem crcIsTheReflectedPolynomialDivision : Obligations.CrcIsTheReflectedPolynomialDivision := by
  have hnormal : (0x04C11DB7#32).reverse = crcPoly := by decide +kernel
  have hpoly : crcPoly.reverse = 0x04C11DB7#32 := by rw [← hnormal, BitVec.reverse_reverse_eq]
  refine ⟨by decide, hnormal, fun acc => ?_⟩
  have hbit : acc.reverse.getLsbD 31 = acc.getLsbD 0 := by
    rw [← BitVec.msb_reverse, BitVec.msb_eq_getLsbD_last]
  rw [hbit, ← hpoly, ← reverse_ushiftRight, ← reverse_xor, crcShift]
  split <;> rfl

/-- Settles O33: a flipped bit changes one byte. -/
theorem crcDetectsAnySingleBitError : Obligations.CrcDetectsAnySingleBitError := by
  intro d k j hk hj
  have hbit : 1#8 <<< j ≠ 0#8 := by revert j; decide
  intro h
  have hbyte : byteAt d k ^^^ 1#8 <<< j = byteAt d k :=
    crc32_set_injective d hk (h.trans (congrArg crc32 (set_byteAt_self d hk).symm))
  exact hbit ((BitVec.xor_right_inj _).1 (hbyte.trans BitVec.xor_zero.symm))

/-- Settles O31: each value is computed from R104's definition. -/
theorem crcCheckValues : Obligations.CrcCheckValues := by
  unfold Obligations.CrcCheckValues
  decide +kernel

end Sys2Proof.Machine
end

section
/-! PROOFS. The header codec and its two commands (O16, O17, O23). -/

namespace Sys2Proof.Machine

/-! ### Big-endian values and the bytes of a sequence -/

/-- Neighbouring fields of a value, side by side, are the field that spans them (R10). -/
theorem extractLsb'_append_next {w : Nat} (x : BitVec w) (i n m : Nat) :
    x.extractLsb' (i + m) n ++ x.extractLsb' i m = x.extractLsb' i (n + m) :=
  BitVec.extractLsb'_append_extractLsb'_eq_extractLsb' rfl

/-- The bytes of a 16-bit value, side by side, are the value (R11). -/
theorem append_be16 (x : BitVec 16) : x.extractLsb' 8 8 ++ x.extractLsb' 0 8 = x := by
  rw [extractLsb'_append_next x 0 8 8, BitVec.extractLsb'_eq_self]

/-- The bytes of a 32-bit value, side by side, are the value (R11). -/
theorem append_be32 (x : BitVec 32) :
    x.extractLsb' 24 8 ++ x.extractLsb' 16 8 ++ x.extractLsb' 8 8 ++ x.extractLsb' 0 8 = x := by
  rw [extractLsb'_append_next x 16 8 8, extractLsb'_append_next x 8 16 8,
    extractLsb'_append_next x 0 24 8, BitVec.extractLsb'_eq_self]

/-- The array form of a 24-bit register loses nothing (R32). -/
theorem unbe24_be24 (x : BitVec 24) : unbe24 (be24 x) = x := by
  rw [be24, unbe24, extractLsb'_append_next x 8 8 8, extractLsb'_append_next x 0 16 8,
    BitVec.extractLsb'_eq_self]

/-- `be16` lays two bytes read big-endian out again (R11). -/
theorem be16_append (a b : Byte) : be16 (a ++ b) = [a, b] := by
  rw [be16, BitVec.extractLsb'_append_eq_left, BitVec.extractLsb'_append_eq_right]

/-- `be32` lays four bytes read big-endian out again (R11). -/
theorem be32_append (a b c d : Byte) : be32 (a ++ b ++ c ++ d) = [a, b, c, d] := by
  obtain ⟨ha, hb, hc, hd⟩ := extractLsb'_append4 a b c d
  rw [be32, ha, hb, hc, hd]

/-- A sequence is its bytes in order. -/
theorem map_byteAt_range (b : Bytes) : (List.range b.length).map (byteAt b) = b :=
  List.ext_getElem (by simp) fun i _ hi => by simp [byteAt, hi]

/-- A subsequence is its bytes in order (R10). -/
theorem slice_eq_map_byteAt (b : Bytes) {i n : Nat} (h : i + n ≤ b.length) :
    slice b i (i + n) = (List.range n).map fun j => byteAt b (i + j) := by
  refine List.ext_getElem (by simp [slice_length b _ _ h]) fun j hj _ => ?_
  have hb : i + j < b.length := by rw [slice_length b _ _ h] at hj; omega
  simp [slice, byteAt, hb]

/-- Two neighbouring bytes as one value, the first the more significant (R11). -/
theorem ofNat_unbe_slice2 (b : Bytes) {i : Nat} (h : i + 2 ≤ b.length) :
    BitVec.ofNat 16 (unbe (slice b i (i + 2))) = byteAt b i ++ byteAt b (i + 1) := by
  rw [slice_eq_map_byteAt b h]
  exact ofNat_unbe2 _ _

/-- Four neighbouring bytes as one value, the first the most significant (R11). -/
theorem ofNat_unbe_slice4 (b : Bytes) {i : Nat} (h : i + 4 ≤ b.length) :
    BitVec.ofNat 32 (unbe (slice b i (i + 4))) = wordAt b i := by
  rw [slice_eq_map_byteAt b h]
  exact ofNat_unbe4 _ _ _ _

/-! ### The header codec (R121, R127) -/

/-- hdrEncode on the header registers gives the bytes of the header table (R121, R123). -/
theorem hdrEncode_readHeader (s : State) : hdrEncode s.readHeader = headerLayout s.hdr := rfl

/-- A header read from the registers and written back is the registers' contents (R40). -/
theorem State.writeHeader_readHeader_hdr (s t : State) : (t.writeHeader s.readHeader).hdr = s.hdr := by
  simp only [State.writeHeader_hdr, State.readHeader, unbe24_be24]

/-- hdrDecode, each multi-byte field as the concatenation of its bytes (R121, R125). -/
theorem hdrDecode_eq {b : Bytes} (hb : b.length = 24) :
    hdrDecode b = .ok
      { rctl := byteAt b 0, did := bytes3At b 1, prio := byteAt b 4, sid := bytes3At b 5,
        typ := byteAt b 8, fctl := bytes3At b 9, seqid := byteAt b 12, dfctl := byteAt b 13,
        seqcnt := byteAt b 14 ++ byteAt b 15, oxid := byteAt b 16 ++ byteAt b 17,
        rxid := byteAt b 18 ++ byteAt b 19, param := wordAt b 20 } := by
  rw [hdrDecode, if_neg (fun hne => hne hb), ofNat_unbe_slice2 b (i := 14) (by omega),
    ofNat_unbe_slice2 b (i := 16) (by omega), ofNat_unbe_slice2 b (i := 18) (by omega),
    ofNat_unbe_slice4 b (i := 20) (by omega)]

/-- hdrEncode, byte by byte (R121, R123). -/
theorem hdrEncode_eq (h : Header) : hdrEncode h =
    [h.rctl, h.did.e0, h.did.e1, h.did.e2, h.prio, h.sid.e0, h.sid.e1, h.sid.e2, h.typ,
      h.fctl.e0, h.fctl.e1, h.fctl.e2, h.seqid, h.dfctl,
      h.seqcnt.extractLsb' 8 8, h.seqcnt.extractLsb' 0 8, h.oxid.extractLsb' 8 8,
      h.oxid.extractLsb' 0 8, h.rxid.extractLsb' 8 8, h.rxid.extractLsb' 0 8,
      h.param.extractLsb' 24 8, h.param.extractLsb' 16 8, h.param.extractLsb' 8 8,
      h.param.extractLsb' 0 8] := rfl

/-- No field of a Header is lost on the wire (R127). -/
theorem hdrDecode_hdrEncode (h : Header) : hdrDecode (hdrEncode h) = .ok h := by
  rw [hdrDecode_eq (hdrEncode_length h), hdrEncode_eq]
  simp only [bytes3At, wordAt, byteAt, List.getD_cons_zero, List.getD_cons_succ, append_be16,
    append_be32]

/-- The 24 bytes of a Header are all field bytes: none is lost by a decode (R120, R127). -/
theorem hdrEncode_of_hdrDecode {b : Bytes} {h : Header} (hb : b.length = 24)
    (hd : hdrDecode b = .ok h) : hdrEncode h = b := by
  rw [hdrDecode_eq hb] at hd
  cases hd
  have hbytes := map_byteAt_range b
  rw [hb] at hbytes
  rw [hdrEncode, be16_append, be16_append, be16_append, wordAt, be32_append]
  exact hbytes

/-- A decoded Header in the registers is what the header table gives (R32, R121). -/
theorem writeHeader_hdr_of_hdrDecode {b : Bytes} {h : Header} (hb : b.length = 24)
    (hd : hdrDecode b = .ok h) (s : State) : (s.writeHeader h).hdr = headerRegsAt b 0 := by
  rw [hdrDecode_eq hb] at hd
  cases hd
  rfl

/-! ### HDR.ENC and HDR.DEC -/

/-- What a read of the first bytes of a buffer may answer (R41, R68). -/
theorem Memory.readFrom_readAll (m : Memory) (n d : Nat) : ReadFrom m n (m.readAll 0 n d).1 :=
  ⟨m.readAll_length 0 n d, fun k v hk hv => m.readAll_getElem? 0 n d k v hk (by rwa [Nat.zero_add])⟩

/-- A read of WIRE[0..WIRE_LEN) that is written throughout answers its bytes and takes no free value (R41, R68). -/
theorem State.WireHolds.memRead {s : State} {b : Bytes} (h : s.WireHolds b) :
    s.memRead .wire 0 b.length = (b, s) := by
  have e := s.wire.readAll_of_written 0 s.draws b fun i hi => by
    rw [Nat.zero_add, h.2 i hi, List.getElem?_eq_getElem hi]
  rw [State.memRead, State.buf_wire, e]
  rfl

/-- HDR.DEC of the bytes of a Header commits that Header (R126, R127). -/
theorem execHdrDec_of_wireHolds {s : State} {h : Header} (hw : s.WireHolds (hdrEncode h)) :
    execHdrDec s = .next ((s.writeHeader h).complete .ok) := by
  have hread := hw.memRead
  have hlen := hw.1
  rw [hdrEncode_length] at hread hlen
  obtain ⟨h', hd, e⟩ := execHdrDec_ok hlen
  rw [hread] at hd e
  obtain rfl : h = h' := Except.ok.inj ((hdrDecode_hdrEncode h).symm.trans hd)
  exact e

theorem State.memWrite_wire_eq (s : State) (off : Nat) (v : Bytes) :
    s.memWrite .wire off v = { s with wire := s.wire.putAll off v } := rfl

/-- HDR.ENC sets STATUS and WIRE_LEN and writes the 24 bytes of the header table (R121, R124). -/
theorem execHdrEnc_eq (s : State) :
    execHdrEnc s = .next { s with engine := .idle (some .ok), wireLen := 24#17,
                                  wire := s.wire.putAll 0 (headerLayout s.hdr) } := by
  rw [execHdrEnc, hdrEncode_readHeader, State.memWrite_wire_eq]
  simp only [State.setWireLen, State.complete]

/-- Settles O16: the 24 bytes written are those of the header table, and a write leaves the bytes outside its range. -/
theorem hdrEncWritesTheHeaderBytes : Obligations.HdrEncWritesTheHeaderBytes := by
  obtain ⟨henc, -⟩ := commandWordsDecode
  refine ⟨henc, fun s => ?_⟩
  have hexec := execHdrEnc_eq s
  have hlen : (headerLayout s.hdr).length = 24 := rfl
  generalize headerLayout s.hdr = v at hexec hlen ⊢
  have hbyte := s.wire.byteAt?_putAll 0 v
  refine ⟨_, hexec, rfl, rfl, hlen, fun k hk => ?_, fun k hk => ?_, rfl⟩
  · exact (hbyte k).trans (if_pos ⟨k.zero_le, by omega⟩)
  · exact (hbyte k).trans (if_neg (by omega))

/-- Settles O17: the bytes are those that HDR.DEC's own read of WIRE answers. -/
theorem hdrDecReadsTheHeaderBytes : Obligations.HdrDecReadsTheHeaderBytes := by
  obtain ⟨-, hdec, -⟩ := commandWordsDecode
  refine ⟨hdec, fun s => ⟨fun h24 => ?_, fun hne => ⟨_, execHdrDec_fail hne, rfl, rfl⟩⟩⟩
  obtain ⟨h, hd, e⟩ := execHdrDec_ok h24
  have hread := s.wire.readFrom_readAll 24 s.draws
  have hregs := writeHeader_hdr_of_hdrDecode hread.1 hd (s.memRead .wire 0 24).2
  exact ⟨_, _, hread, e, rfl, hregs, rfl⟩

/-- Settles O23: at register level, HDR.ENC leaves WIRE holding the header's bytes, which HDR.DEC reads back. -/
theorem headerRoundTrip : Obligations.HeaderRoundTrip := by
  refine ⟨hdrDecode_hdrEncode, fun b hb => ?_, fun s => ?_⟩
  · obtain ⟨h, hd⟩ := hdrDecode_isOk hb
    exact ⟨h, hd, hdrEncode_of_hdrDecode hb hd⟩
  · obtain ⟨-, henc⟩ := hdrEncWritesTheHeaderBytes
    obtain ⟨t, e, -, hwl, hlen, hbytes, -, -⟩ := henc s
    have hholds : t.WireHolds (hdrEncode s.readHeader) := by
      rw [hdrEncode_readHeader]
      exact ⟨by rw [hwl, hlen]; rfl, fun i hi => hbytes i (hlen ▸ hi)⟩
    exact ⟨t, _, e, execHdrDec_of_wireHolds hholds, rfl, State.writeHeader_readHeader_hdr s t⟩

end Sys2Proof.Machine
end

section
/-! PROOFS. What no decode reads: WIRE past WIRE_LEN, and for FIP.DEC past the tenth byte (O36). -/

namespace Sys2Proof.Machine

/-! ### The machine under other WIRE contents -/

/-- The machine with other WIRE contents and another WIRE_LEN. -/
def State.withWire (s : State) (m : Memory) (n : BitVec 17) : State :=
  { s with wire := m, wireLen := n }

@[simp] theorem State.withWire_wireLen (s : State) (m : Memory) (n : BitVec 17) :
    (s.withWire m n).wireLen = n := rfl

/-- A read of WIRE bytes in which two machines agree answers the same (R68). -/
theorem State.memRead_withWire {s : State} {m : Memory} (n : BitVec 17) {k : Nat}
    (h : ∀ j, j < k → m.byteAt? j = s.wire.byteAt? j) :
    (s.withWire m n).memRead .wire 0 k =
      ((s.memRead .wire 0 k).1, (s.memRead .wire 0 k).2.withWire m n) := by
  have e : m.readAll 0 k s.draws = s.wire.readAll 0 k s.draws :=
    m.readAll_congr s.wire 0 k s.draws fun j hj => by rw [Nat.zero_add]; exact h j hj
  simp only [State.memRead, State.buf_wire, State.withWire, State.setDraws, e]

theorem State.complete_withWire (s : State) (m : Memory) (n : BitVec 17) (st : Status) :
    (s.withWire m n).complete st = (s.complete st).withWire m n := rfl

theorem State.crcRelease_withWire (s : State) (m : Memory) (n : BitVec 17) :
    (s.withWire m n).crcRelease = s.crcRelease.withWire m n := rfl

theorem State.writeFrame_withWire (s : State) (m : Memory) (n : BitVec 17) (f : Frame) :
    (s.withWire m n).writeFrame f = (s.writeFrame f).withWire m n := by
  unfold State.writeFrame
  cases f.hdr <;> rfl

/-! ### The decodes -/

/-- A command that leaves WIRE_LEN as it is answers the same whether WIRE and WIRE_LEN are those of `s` or are `m` and `n`. -/
def SameUnderWire (f : State → Host.Outcome State Fault Refusal) (s : State) (m : Memory)
    (n : BitVec 17) : Prop :=
  ∃ t, f s = .next t ∧ t.wireLen = s.wireLen ∧ f (s.withWire m n) = .next (t.withWire m n)

theorem execHdrDec_sameUnderWire {s : State} {m : Memory}
    (h : ∀ k, k < s.wireLen.toNat → m.byteAt? k = s.wire.byteAt? k) :
    SameUnderWire execHdrDec s m s.wireLen := by
  by_cases h24 : s.wireLen.toNat = 24
  · obtain ⟨hd, hdec, e⟩ := execHdrDec_ok h24
    obtain ⟨hd', hdec', e'⟩ := execHdrDec_ok (s := s.withWire m s.wireLen) h24
    rw [State.memRead_withWire s.wireLen fun k hk => h k (by omega)] at hdec' e'
    obtain rfl : hd = hd' := Except.ok.inj (hdec.symm.trans hdec')
    exact ⟨_, e, rfl, e'⟩
  · exact ⟨_, execHdrDec_fail h24, rfl, execHdrDec_fail h24⟩

theorem execFrmDec_sameUnderWire {s : State} {m : Memory}
    (h : ∀ k, k < s.wireLen.toNat → m.byteAt? k = s.wire.byteAt? k) :
    SameUnderWire execFrmDec s m s.wireLen := by
  unfold SameUnderWire
  simp only [execFrmDec, State.withWire_wireLen, State.memRead_withWire s.wireLen h,
    State.runCrc_fst, State.runCrc_snd, State.crcRelease_withWire, State.writeFrame_withWire,
    State.complete_withWire]
  cases frmCheck (s.memRead .wire 0 s.wireLen.toNat).1 with
  | some st => exact ⟨_, rfl, rfl, rfl⟩
  | none =>
    simp only
    split
    · exact ⟨_, rfl, rfl, rfl⟩
    · cases frmExtract (s.memRead .wire 0 s.wireLen.toNat).1 with
      | error st => exact ⟨_, rfl, rfl, rfl⟩
      | ok f => exact ⟨_, rfl, State.writeFrame_wireLen _ f, rfl⟩

/-- FIP.DEC reads the first ten WIRE bytes, and of WIRE_LEN only whether it is at least 10 (R179, R180). -/
theorem execFipDec_sameUnderWire {s : State} {m : Memory} {n : BitVec 17}
    (hn : n.toNat < 10 ↔ s.wireLen.toNat < 10)
    (h : 10 ≤ s.wireLen.toNat → ∀ k, k < 10 → m.byteAt? k = s.wire.byteAt? k) :
    SameUnderWire execFipDec s m n := by
  unfold SameUnderWire
  simp only [execFipDec, State.withWire_wireLen, hn]
  split
  case isTrue => exact ⟨_, rfl, rfl, rfl⟩
  case isFalse h10 =>
    rw [State.memRead_withWire n (h (by omega))]
    cases fipDecode (s.memRead .wire 0 10).1 <;> exact ⟨_, rfl, rfl, rfl⟩

/-- Settles O36: each decode reads WIRE within WIRE_LEN, and FIP.DEC within the first ten bytes. -/
theorem decodesIgnoreBytesPastWireLen : Obligations.DecodesIgnoreBytesPastWireLen := by
  refine ⟨fun i s m hi h => ?_, fun s m n hs hn h => ?_⟩
  · have hsame : SameUnderWire (exec i) s m s.wireLen := by
      simp only [List.mem_cons, List.not_mem_nil, or_false] at hi
      rcases hi with rfl | rfl | rfl
      · exact execHdrDec_sameUnderWire h
      · exact execFrmDec_sameUnderWire h
      · exact execFipDec_sameUnderWire Iff.rfl fun h10 k hk => h k (by omega)
    obtain ⟨t, e, hlen, e'⟩ := hsame
    refine ⟨t, e, e'.trans ?_⟩
    rw [← hlen]
    rfl
  · obtain ⟨t, e, -, e'⟩ := execFipDec_sameUnderWire (n := n) (by omega) fun _ => h
    exact ⟨t, e, e'⟩

end Sys2Proof.Machine
end

section
/-! PROOFS. The frame codec: frmDecode in the terms of R151 to R155, what it makes of the bytes of a frame, and the round trip of a Frame (O24, O25, O29). -/

namespace Sys2Proof.Machine

/-! ### Subsequences -/

/-- The middle one of three parts, by its offsets (R10). -/
theorem slice_eq_of_append {b x y z : Bytes} {i j : Nat} (hb : b = x ++ y ++ z)
    (hi : i = x.length) (hj : j = i + y.length) : slice b i j = y := by
  rw [slice, hj, hb, hi, List.append_assoc, List.drop_left, Nat.add_sub_cancel_left, List.take_left]

/-- The byte between two parts, by its offset (R10). -/
theorem byteAt_eq_of_append {b x z : Bytes} {v : Byte} {i : Nat} (hb : b = x ++ [v] ++ z)
    (hi : i = x.length) : byteAt b i = v := by
  rw [byteAt, List.getD_eq_getElem?_getD, hb, hi, List.append_assoc,
    List.getElem?_append_right (Nat.le_refl _), Nat.sub_self]
  rfl

theorem set_eq_of_append {b x z : Bytes} {v : Byte} {i : Nat} (hb : b = x ++ [v] ++ z)
    (hi : i = x.length) (w : Byte) : b.set i w = x ++ [w] ++ z := by
  rw [hb, hi, List.append_assoc, List.set_append_right _ _ (Nat.le_refl _), Nat.sub_self,
    List.append_assoc]
  rfl

theorem slice_getElem? (b : Bytes) {i j k : Nat} (hk : k < j - i) : (slice b i j)[k]? = b[i + k]? := by
  rw [slice, List.getElem?_take_of_lt hk, List.getElem?_drop]

theorem byteAt_slice (b : Bytes) {i j k : Nat} (hk : k < j - i) :
    byteAt (slice b i j) k = byteAt b (i + k) := by
  simp only [byteAt, List.getD_eq_getElem?_getD, slice_getElem? b hk]

/-- Four bytes from offset `i` on that lay out `c` read as `c` (R11, R62). -/
theorem wordAt_of_slice_eq_be32 {b : Bytes} {i : Nat} {c : Word} (hi : i + 4 ≤ b.length)
    (h : slice b i (i + 4) = be32 c) : wordAt b i = c := by
  rw [← ofNat_unbe_slice4 b hi, h, be32, ofNat_unbe4, append_be32]

/-- Any four bytes are the layout of a word (R11). -/
theorem exists_be32_eq {l : Bytes} (h : l.length = 4) : ∃ c, be32 c = l := by
  match l, h with
  | [b0, b1, b2, b3], _ => exact ⟨b0 ++ b1 ++ b2 ++ b3, be32_append b0 b1 b2 b3⟩

/-! ### The checks of frmDecode, each by its rule -/

/-- Three bytes are the zero region exactly when each is zero (R144). -/
theorem slice_eq_zeros3_iff {b : Bytes} {i : Nat} (h : i + 3 ≤ b.length) :
    slice b i (i + 3) = zeros 3 ↔
      byteAt b i = 0#8 ∧ byteAt b (i + 1) = 0#8 ∧ byteAt b (i + 2) = 0#8 := by
  have e : (List.range 3).map (fun j => byteAt b (i + j)) =
      [byteAt b i, byteAt b (i + 1), byteAt b (i + 2)] := rfl
  have z : zeros 3 = [0#8, 0#8, 0#8] := rfl
  rw [slice_eq_map_byteAt b h, e, z]
  simp only [List.cons.injEq, and_true]

/-- The framing is bad exactly when frmCheck's second test says so (R152). -/
theorem frameFramingBad_iff {b : Bytes} (h : 36 ≤ b.length) : FrameFramingBad b ↔
    slice b 0 3 ≠ zeros 3 ∨ slice b (b.length - 3) b.length ≠ zeros 3 ∨
      (b.length - 36) % 4 ≠ 0 := by
  have hend : b.length - 3 + 3 = b.length := by omega
  have hlo := slice_eq_zeros3_iff (b := b) (i := 0) (by omega)
  have hhi := slice_eq_zeros3_iff (b := b) (i := b.length - 3) (by omega)
  rw [hend, show b.length - 3 + 1 = b.length - 2 by omega,
    show b.length - 3 + 2 = b.length - 1 by omega] at hhi
  simp only [FrameFramingBad, ne_eq, hlo, hhi, Classical.not_and_iff_not_or_not, or_assoc,
    Nat.zero_add]

theorem frmRegion_eq {b : Bytes} (h : 36 ≤ b.length) : frmRegion b = slice b 4 (b.length - 8) := by
  rw [frmRegion, show 28 + (b.length - 36) = b.length - 8 by omega]

theorem frmStoredCrc_eq {b : Bytes} (h : 36 ≤ b.length) :
    frmStoredCrc b = wordAt b (b.length - 8) := by
  rw [frmStoredCrc, show 28 + (b.length - 36) = b.length - 8 by omega,
    show 32 + (b.length - 36) = b.length - 8 + 4 by omega,
    ofNat_unbe_slice4 b (by omega)]

theorem frmCheck_of_short {b : Bytes} (h : b.length < 36) : frmCheck b = some .bufferTooShort :=
  if_pos h

theorem frmCheck_of_framingBad {b : Bytes} (h : 36 ≤ b.length) (hbad : FrameFramingBad b) :
    frmCheck b = some .invalidFrame :=
  (if_neg (Nat.not_lt.2 h)).trans (if_pos ((frameFramingBad_iff h).1 hbad))

theorem frmCheck_of_framingOk {b : Bytes} (h : 36 ≤ b.length) (hok : ¬ FrameFramingBad b) :
    frmCheck b = none :=
  (if_neg (Nat.not_lt.2 h)).trans (if_neg fun hbad => hok ((frameFramingBad_iff h).2 hbad))

/-- R151. -/
theorem frmDecode_of_short {b : Bytes} (h : b.length < 36) :
    frmDecode b = .error .bufferTooShort := by
  rw [frmDecode, frmCheck_of_short h]

/-- R152. -/
theorem frmDecode_of_framingBad {b : Bytes} (h : 36 ≤ b.length) (hbad : FrameFramingBad b) :
    frmDecode b = .error .invalidFrame := by
  rw [frmDecode, frmCheck_of_framingBad h hbad]

/-- R153. -/
theorem frmDecode_of_crc_ne {b : Bytes} (h : 36 ≤ b.length) (hok : ¬ FrameFramingBad b)
    (hcrc : crc32 (slice b 4 (b.length - 8)) ≠ wordAt b (b.length - 8)) :
    frmDecode b = .error .invalidCrc := by
  rw [frmDecode, frmCheck_of_framingOk h hok, frmRegion_eq h, frmStoredCrc_eq h]
  exact if_pos hcrc

/-- A sequence that passes every check decodes to the Frame in it (R155). -/
theorem frmDecode_of_valid {b : Bytes} {hd : Header} (h : 36 ≤ b.length)
    (hok : ¬ FrameFramingBad b)
    (hcrc : crc32 (slice b 4 (b.length - 8)) = wordAt b (b.length - 8))
    (hhd : hdrDecode (slice b 4 28) = .ok hd) :
    frmDecode b = .ok { sof := byteAt b 3, hdr := some hd, payload := slice b 28 (b.length - 8),
                        eof := byteAt b (b.length - 4) } := by
  rw [frmDecode, frmCheck_of_framingOk h hok, frmRegion_eq h, frmStoredCrc_eq h]
  refine (if_neg (not_not_intro hcrc)).trans ?_
  rw [frmExtract, hhd, show 28 + (b.length - 36) = b.length - 8 by omega,
    show 32 + (b.length - 36) = b.length - 4 by omega]

/-! ### The regions of an assembled frame (R143) -/

section Assembled

variable (sof : Byte) (body : Bytes) (c : Word) (eof : Byte)

theorem frmHead_length : (zeros 3 ++ [sof]).length = 4 := rfl

theorem frmHead_body_length : (zeros 3 ++ [sof] ++ body).length = body.length + 4 := by
  rw [List.length_append, frmHead_length, Nat.add_comm]

theorem frmHead_body_crc_length :
    (zeros 3 ++ [sof] ++ body ++ be32 c).length = body.length + 8 := by
  rw [List.length_append, frmHead_body_length, be32_length]

theorem slice_body_frmAssemble :
    slice (frmAssemble sof body c eof) 4 (body.length + 4) = body :=
  slice_eq_of_append (x := zeros 3 ++ [sof]) (z := be32 c ++ [eof] ++ zeros 3)
    (by simp only [frmAssemble, List.append_assoc]) rfl (Nat.add_comm _ _)

theorem wordAt_frmAssemble : wordAt (frmAssemble sof body c eof) (body.length + 4) = c := by
  refine wordAt_of_slice_eq_be32 (by rw [frmAssemble_length]; omega) ?_
  exact slice_eq_of_append (x := zeros 3 ++ [sof] ++ body) (z := [eof] ++ zeros 3)
    (by simp only [frmAssemble, List.append_assoc]) (frmHead_body_length sof body).symm rfl

theorem byteAt_eof_frmAssemble : byteAt (frmAssemble sof body c eof) (body.length + 8) = eof :=
  byteAt_eq_of_append rfl (frmHead_body_crc_length sof body c).symm

/-- The reserved bytes are zero, and whole words in the body are whole words in the payload (R144). -/
theorem frmAssemble_framingOk (hlen : 24 ≤ body.length) (h4 : body.length % 4 = 0) :
    ¬ FrameFramingBad (frmAssemble sof body c eof) := by
  have hl := frmAssemble_length sof body c eof
  have hlo : slice (frmAssemble sof body c eof) 0 3 = zeros 3 := rfl
  have hhi : slice (frmAssemble sof body c eof) (body.length + 9) (body.length + 12) = zeros 3 := by
    refine slice_eq_of_append (z := []) (List.append_nil _).symm ?_ rfl
    rw [List.length_append, frmHead_body_crc_length, List.length_singleton]
  rw [frameFramingBad_iff (by omega), hl, show body.length + 12 - 3 = body.length + 9 by omega]
  simp only [hlo, hhi, ne_eq, not_true_eq_false, false_or]
  omega

theorem frmAssemble_set_sof (x : Byte) :
    (frmAssemble sof body c eof).set 3 x = frmAssemble x body c eof := rfl

theorem frmAssemble_set_eof (y : Byte) :
    (frmAssemble sof body c eof).set (body.length + 8) y = frmAssemble sof body c y :=
  set_eq_of_append rfl (frmHead_body_crc_length sof body c).symm y

end Assembled

/-- An assembled frame with a CRC that is not its body's (R153). -/
theorem frmDecode_frmAssemble_of_crc_ne {sof eof : Byte} {body : Bytes} {c : Word}
    (hlen : 24 ≤ body.length) (h4 : body.length % 4 = 0) (hc : crc32 body ≠ c) :
    frmDecode (frmAssemble sof body c eof) = .error .invalidCrc := by
  have hl := frmAssemble_length sof body c eof
  refine frmDecode_of_crc_ne (by omega) (frmAssemble_framingOk sof body c eof hlen h4) ?_
  rw [hl, show body.length + 12 - 8 = body.length + 4 by omega, wordAt_frmAssemble,
    slice_body_frmAssemble]
  exact hc

/-- An assembled frame with its body's CRC decodes to its parts, the Header being that of the body's first 24 bytes (R149, R155). -/
theorem frmDecode_frmAssemble (sof : Byte) {hb p : Bytes} {h : Header} (eof : Byte)
    (hlen : hb.length = 24) (hdec : hdrDecode hb = .ok h) (h4 : p.length % 4 = 0) :
    frmDecode (frmAssemble sof (hb ++ p) (crc32 (hb ++ p)) eof) =
      .ok { sof := sof, hdr := some h, payload := p, eof := eof } := by
  generalize hc : crc32 (hb ++ p) = c
  have hbody : (hb ++ p).length = p.length + 24 := by rw [List.length_append, hlen, Nat.add_comm]
  have hl : (frmAssemble sof (hb ++ p) c eof).length = p.length + 36 := by
    rw [frmAssemble_length, hbody]
  have hhdr : slice (frmAssemble sof (hb ++ p) c eof) 4 28 = hb :=
    slice_eq_of_append (x := zeros 3 ++ [sof]) (z := p ++ be32 c ++ [eof] ++ zeros 3)
      (by simp only [frmAssemble, List.append_assoc]) rfl (by rw [hlen])
  have hpay : slice (frmAssemble sof (hb ++ p) c eof) 28 (p.length + 28) = p :=
    slice_eq_of_append (x := zeros 3 ++ [sof] ++ hb) (z := be32 c ++ [eof] ++ zeros 3)
      (by simp only [frmAssemble, List.append_assoc]) (by rw [frmHead_body_length, hlen])
      (Nat.add_comm _ _)
  have hregion := slice_body_frmAssemble sof (hb ++ p) c eof
  have hcrc := wordAt_frmAssemble sof (hb ++ p) c eof
  have heof := byteAt_eof_frmAssemble sof (hb ++ p) c eof
  rw [hbody] at hregion hcrc heof
  rw [frmDecode_of_valid (by omega) (frmAssemble_framingOk sof _ c eof (by omega) (by omega))
      (by rw [hl]; exact (congrArg crc32 hregion).trans (hc.trans hcrc.symm))
      ((congrArg hdrDecode hhdr).trans hdec),
    hl]
  exact congrArg Except.ok (congr (congrArg (Frame.mk sof (some h)) hpay) heof)

/-! ### The encoding of a Frame -/

/-- A payload and the zero bytes that fill its last word (R142). -/
def padPayload (p : Bytes) : Bytes :=
  p ++ List.replicate (padBytes p.length) 0#8

/-- R142's table is what fills up to ceil4. -/
theorem ceil4_sub_self (n : Nat) : ceil4 n - n = padBytes n := by
  unfold ceil4 padBytes; omega

theorem padBytes_eq_zero_iff (n : Nat) : padBytes n = 0 ↔ n % 4 = 0 := by
  unfold padBytes; omega

theorem padPayload_length (p : Bytes) : (padPayload p).length = p.length + padBytes p.length := by
  rw [padPayload, List.length_append, List.length_replicate]

theorem padPayload_length_mod (p : Bytes) : (padPayload p).length % 4 = 0 := by
  rw [padPayload_length, padBytes]; omega

/-- Nothing is padded exactly when the payload is whole words (R142, R156). -/
theorem padPayload_eq_self_iff (p : Bytes) : padPayload p = p ↔ p.length % 4 = 0 := by
  rw [padPayload, List.append_right_eq_self, List.replicate_eq_nil_iff, padBytes_eq_zero_iff]

theorem frmBody_eq (h : Header) (p : Bytes) : frmBody h p = hdrEncode h ++ padPayload p := by
  rw [frmBody, ceil4_sub_self, List.append_assoc, padPayload, zeros]

/-- The bytes of a Frame with a Header (R145). -/
theorem frmEncode_eq {f : Frame} {h : Header} (hf : f.hdr = some h) :
    frmEncode f = .ok (frmAssemble f.sof (hdrEncode h ++ padPayload f.payload)
      (crc32 (hdrEncode h ++ padPayload f.payload)) f.eof) := by
  simp only [frmEncode, hf, frmBody_eq]

/-- What decoding the encoding of a Frame answers: the Frame with its pad (R147, R156). -/
def Frame.padded (f : Frame) : Frame :=
  { f with payload := padPayload f.payload }

/-- The pad is not padded again (R158). -/
theorem frmEncode_padded (f : Frame) : frmEncode f.padded = frmEncode f := by
  have hpad : padPayload (padPayload f.payload) = padPayload f.payload :=
    (padPayload_eq_self_iff _).2 (padPayload_length_mod _)
  cases hf : f.hdr with
  | none => simp only [frmEncode, Frame.padded, hf]
  | some h => rw [frmEncode_eq hf, frmEncode_eq (f := f.padded) hf, Frame.padded, hpad]

/-- The round trip of a Frame (R147). -/
theorem frmDecode_of_frmEncode {f : Frame} {h : Header} {b : Bytes} (hf : f.hdr = some h)
    (hb : frmEncode f = .ok b) : frmDecode b = .ok f.padded := by
  rw [frmEncode_eq hf] at hb
  cases hb
  rw [frmDecode_frmAssemble f.sof f.eof (hdrEncode_length h) (hdrDecode_hdrEncode h)
    (padPayload_length_mod f.payload), ← hf]
  rfl

/-- Settles O24: the parts of an assembled frame are what its decode answers. -/
theorem frameRoundTrip : Obligations.FrameRoundTrip := by
  intro f h hf
  exact ⟨_, frmEncode_eq hf, frmDecode_of_frmEncode hf (frmEncode_eq hf)⟩

/-- Settles O25: the payload comes back with its pad, which is empty exactly for whole words and is not added twice. -/
theorem payloadRoundTripsIffAligned : Obligations.PayloadRoundTripsIffAligned := by
  intro f h hf
  have henc := frmEncode_eq hf
  exact ⟨_, f.padded, henc, frmDecode_of_frmEncode hf henc, padPayload_eq_self_iff f.payload, rfl,
    rfl, rfl, (frmEncode_padded f).trans henc⟩

/-- Settles O29: the encoding with the two bytes replaced is the encoding of the Frame with another SOF and EOF. -/
theorem sofAndEofAreOpaque : Obligations.SofAndEofAreOpaque := by
  intro f h b x y hf hb
  have hset : frmEncode { f with sof := x, eof := y } = .ok ((b.set 3 x).set (b.length - 4) y) := by
    rw [frmEncode_eq hf] at hb
    cases hb
    rw [frmAssemble_length, frmAssemble_set_sof, Nat.add_sub_assoc (by omega), frmAssemble_set_eof]
    exact frmEncode_eq (f := { f with sof := x, eof := y }) hf
  exact ⟨f.padded, frmDecode_of_frmEncode hf hb,
    frmDecode_of_frmEncode (f := { f with sof := x, eof := y }) hf hset⟩

end Sys2Proof.Machine
end

section
/-! PROOFS. FRM.ENC and FRM.DEC: what each commits, in which order FRM.DEC fails, which corrupted frames it rejects, and that FRM.ENC reads no PAY byte past PAY_LEN (O18 to O20, O27, O28, O35). -/

namespace Sys2Proof.Machine

/-! ### FRM.DEC follows frmDecode -/

/-- A failed decode changes STATUS, the free values taken and CRC_ACC only (R154, R203). -/
theorem execFrmDec_of_error {s : State} {st : Status}
    (h : frmDecode (s.memRead .wire 0 s.wireLen.toNat).1 = .error st) :
    ∃ d c, execFrmDec s = .next { s with engine := .idle (some st), draws := d, crcAcc := c } := by
  rcases execFrmDec_cases s with ⟨_, -, h', e⟩ | ⟨-, h', e⟩ | ⟨-, _, _, -, -, h', -⟩
  · cases h'.symm.trans h; exact ⟨_, _, e⟩
  · cases h'.symm.trans h; exact ⟨_, _, e⟩
  · cases h'.symm.trans h

/-- A decoded Frame is committed (R157). -/
theorem execFrmDec_of_ok {s : State} {f : Frame}
    (h : frmDecode (s.memRead .wire 0 s.wireLen.toNat).1 = .ok f) :
    execFrmDec s = .next
      (((s.memRead .wire 0 s.wireLen.toNat).2.crcRelease.writeFrame f).complete .ok) := by
  rcases execFrmDec_cases s with ⟨_, -, h', -⟩ | ⟨-, h', -⟩ | ⟨-, _, _, -, -, h', e⟩
  · cases h'.symm.trans h
  · cases h'.symm.trans h
  · cases h'.symm.trans h; exact e

/-- FRM.DEC on bytes that frmDecode rejects, all of them written. -/
theorem execFrmDec_of_wireHolds_error {s : State} {b : Bytes} {st : Status} (hw : s.WireHolds b)
    (h : frmDecode b = .error st) :
    ∃ t, execFrmDec s = .next t ∧ t.engine = .idle (some st) := by
  obtain ⟨d, c, e⟩ := execFrmDec_of_error (s := s) (st := st) (by rw [hw.1, hw.memRead, h])
  exact ⟨_, e, rfl⟩

/-- Settles O20: each failure is that of frmDecode on the bytes that FRM.DEC's own read of WIRE answers. -/
theorem frmDecFailuresInTheirOrder : Obligations.FrmDecFailuresInTheirOrder := by
  intro s b
  obtain ⟨t, e, -⟩ := execFrmDec_ends s
  have failed : ∀ st : Status, frmDecode b = .error st →
      t.statusWord = (Engine.idle (some st)).statusWord ∧
      t = { s with engine := .idle (some st), draws := t.draws, crcAcc := t.crcAcc } := by
    intro st h
    obtain ⟨d, c, e'⟩ := execFrmDec_of_error h
    cases e.symm.trans e'
    exact ⟨rfl, rfl⟩
  exact ⟨s.wire.readFrom_readAll _ s.draws, t, e,
    fun hshort => failed _ (frmDecode_of_short hshort),
    fun h hbad => failed _ (frmDecode_of_framingBad h hbad),
    fun h hok hcrc => failed _ (frmDecode_of_crc_ne h hok hcrc)⟩

/-! ### The commit of FRM.DEC -/

/-- The header registers that a sequence gives from offset `i` on are those of its 24 bytes there (R121). -/
theorem headerRegsAt_slice (b : Bytes) (i : Nat) :
    headerRegsAt (slice b i (i + 24)) 0 = headerRegsAt b i := by
  have hbyte : ∀ k < 24, byteAt (slice b i (i + 24)) k = byteAt b (i + k) :=
    fun k hk => byteAt_slice b (by omega)
  simp only [headerRegsAt, Nat.zero_add, hbyte, Nat.reduceLT, Nat.add_zero]

/-- Settles O19: the Frame that the bytes hold is committed, the Header by R121's table. -/
theorem frmDecCommitsAValidFrame : Obligations.FrmDecCommitsAValidFrame := by
  obtain ⟨-, -, -, hdec, -⟩ := commandWordsDecode
  refine ⟨hdec, fun s => ?_⟩
  intro b
  refine ⟨s.wire.readFrom_readAll _ s.draws, fun h hok hcrc => ?_⟩
  have hhlen : (slice b 4 28).length = 24 := slice_length b 4 28 (by omega)
  obtain ⟨hd, hhd⟩ := hdrDecode_isOk hhlen
  have e := execFrmDec_of_ok (frmDecode_of_valid h hok hcrc hhd)
  have hregs := writeHeader_hdr_of_hdrDecode hhlen hhd
    (s.memRead .wire 0 s.wireLen.toNat).2.crcRelease
  rw [headerRegsAt_slice b 4] at hregs
  have hblen : b.length = s.wireLen.toNat := Memory.readAll_length ..
  have h4 : (b.length - 36) % 4 = 0 := by
    rw [frameFramingBad_iff h] at hok; omega
  have hplen : (slice b 28 (b.length - 8)).length = b.length - 36 := by
    rw [slice_length b _ _ (by omega)]; omega
  have hpay : ∀ k < b.length - 36, (slice b 28 (b.length - 8))[k]? = b[28 + k]? :=
    fun k hk => slice_getElem? b (by omega)
  generalize slice b 28 (b.length - 8) = p at e hplen hpay
  have hpl : (BitVec.ofNat 17 p.length).toNat = b.length - 36 := by
    rw [BitVec.toNat_ofNat, hplen, Nat.mod_eq_of_lt (by omega)]
  have hput := s.pay.byteAt?_putAll 0 p
  refine ⟨_, e, rfl, rfl, rfl, rfl, hregs, hpl, hpl.symm ▸ h4, fun k hk => ?_, fun k hk => ?_, rfl⟩
  · exact (hput k).trans ((if_pos ⟨k.zero_le, by omega⟩).trans (hpay k hk))
  · exact (hput k).trans (if_neg (by omega))

/-! ### Corrupted frames -/

theorem flipBit_length (b : Bytes) (k j : Nat) : (flipBit b k j).length = b.length :=
  List.length_set

/-- A bit of the middle one of three parts flipped (R10). -/
theorem flipBit_append (x y z : Bytes) {i : Nat} (hi : i < y.length) (j : Nat) :
    flipBit (x ++ y ++ z) (x.length + i) j = x ++ flipBit y i j ++ z := by
  have hbyte : byteAt (x ++ y ++ z) (x.length + i) = byteAt y i := by
    rw [byteAt, byteAt, List.getD_eq_getElem?_getD, List.getD_eq_getElem?_getD, List.append_assoc,
      List.getElem?_append_right (Nat.le_add_right _ _), Nat.add_sub_cancel_left,
      List.getElem?_append_left hi]
  rw [flipBit, hbyte, List.append_assoc, List.set_append_right _ _ (Nat.le_add_right _ _),
    Nat.add_sub_cancel_left, List.set_append_left _ _ hi, flipBit, List.append_assoc]

theorem flipBit_ne (b : Bytes) {k j : Nat} (hk : k < b.length) (hj : j < 8) : flipBit b k j ≠ b :=
  fun h => crcDetectsAnySingleBitError b k j hk hj (congrArg crc32 h)

/-- A bit flipped in the CRC region or in the stored CRC leaves a frame whose CRC is not its body's (R159). -/
theorem flipBit_frmAssemble (sof : Byte) (body : Bytes) (eof : Byte) {k j : Nat} (hk : 4 ≤ k)
    (hk' : k < body.length + 8) (hj : j < 8) :
    ∃ body' c, flipBit (frmAssemble sof body (crc32 body) eof) k j = frmAssemble sof body' c eof ∧
      body'.length = body.length ∧ crc32 body' ≠ c := by
  obtain ⟨i, rfl⟩ := Nat.exists_eq_add_of_le hk
  rcases Nat.lt_or_ge i body.length with hi | hi
  · refine ⟨flipBit body i j, crc32 body, ?_, flipBit_length body i j,
      crcDetectsAnySingleBitError body i j hi hj⟩
    simpa only [frmAssemble, List.append_assoc, frmHead_length] using
      flipBit_append (zeros 3 ++ [sof]) body (be32 (crc32 body) ++ [eof] ++ zeros 3) hi j
  · obtain ⟨n, rfl⟩ := Nat.exists_eq_add_of_le hi
    have hn : n < (be32 (crc32 body)).length := by rw [be32_length]; omega
    obtain ⟨c, hc⟩ := exists_be32_eq (flipBit_length (be32 (crc32 body)) n j)
    refine ⟨body, c, ?_, rfl, fun h => flipBit_ne _ hn hj (by rw [← hc, h])⟩
    have hk : 4 + (body.length + n) = (zeros 3 ++ [sof] ++ body).length + n := by
      rw [frmHead_body_length]; omega
    rw [hk, frmAssemble, frmAssemble, hc, List.append_assoc _ [eof], List.append_assoc _ [eof]]
    exact flipBit_append (zeros 3 ++ [sof] ++ body) (be32 (crc32 body)) ([eof] ++ zeros 3) hn j

/-- Settles O27: a bit flipped in the body changes the body's CRC, and one flipped in the stored CRC changes that. -/
theorem singleBitFlipGivesInvalidCrc : Obligations.SingleBitFlipGivesInvalidCrc := by
  intro f h b k j s hf hb hk hk' hj hw
  rw [frmEncode_eq hf] at hb
  cases hb
  have hbody : (hdrEncode h ++ padPayload f.payload).length =
      24 + (padPayload f.payload).length := by rw [List.length_append, hdrEncode_length]
  have h4 := padPayload_length_mod f.payload
  rw [frmAssemble_length] at hk'
  obtain ⟨body', c, hflip, hlen, hcrc⟩ :=
    flipBit_frmAssemble f.sof (hdrEncode h ++ padPayload f.payload) f.eof hk (by omega) hj
  obtain ⟨t, e, ht⟩ := execFrmDec_of_wireHolds_error (hflip ▸ hw)
    (frmDecode_frmAssemble_of_crc_ne (by omega) (by omega) hcrc)
  exact ⟨t, e, ht, congrArg Engine.statusWord ht⟩

theorem byteAt_set_self (b : Bytes) {k : Nat} (hk : k < b.length) (v : Byte) :
    byteAt (b.set k v) k = v := by
  simp [byteAt, hk]

/-- One of the six reserved bytes not zero (R144, R152). -/
theorem frameFramingBad_of_reserved {b : Bytes} {k : Nat} (hlen : 3 ≤ b.length)
    (hk : k < 3 ∨ (b.length - 3 ≤ k ∧ k < b.length)) (hb : byteAt b k ≠ 0#8) :
    FrameFramingBad b := by
  obtain rfl | rfl | rfl | rfl | rfl | rfl : k = 0 ∨ k = 1 ∨ k = 2 ∨
    k = b.length - 3 ∨ k = b.length - 2 ∨ k = b.length - 1 := by omega
  all_goals simp only [FrameFramingBad, hb, ne_eq, not_false_eq_true, true_or, or_true]

theorem frmEncode_length_ge {f : Frame} {h : Header} {b : Bytes} (hf : f.hdr = some h)
    (hb : frmEncode f = .ok b) : 36 ≤ b.length := by
  rw [frmEncode_eq hf] at hb
  cases hb
  rw [frmAssemble_length, List.length_append, hdrEncode_length]
  omega

/-- Settles O28: the byte set is a reserved one, and the frame keeps its length. -/
theorem nonZeroReservedFrameByteIsRejected : Obligations.NonZeroReservedFrameByteIsRejected := by
  intro f h b k v s hf hb hk hv hw
  have hlen := frmEncode_length_ge hf hb
  have hset : (b.set k v).length = b.length := List.length_set
  have hbyte := byteAt_set_self b (k := k) (by omega) v
  have hbad : FrameFramingBad (b.set k v) :=
    frameFramingBad_of_reserved (k := k) (by omega) (by rw [hset]; exact hk) (by rw [hbyte]; exact hv)
  obtain ⟨t, e, ht⟩ := execFrmDec_of_wireHolds_error hw (frmDecode_of_framingBad (by omega) hbad)
  exact ⟨t, e, ht, congrArg Engine.statusWord ht⟩

/-! ### FRM.ENC -/

/-- R143's table is what frmEncode assembles (R145). -/
theorem frameLayout_eq_frmAssemble (sof : Byte) (header padded : Bytes) (c : Word) (eof : Byte) :
    frameLayout sof header padded c eof = frmAssemble sof (header ++ padded) c eof := by
  simp only [frameLayout, frmAssemble, List.append_assoc]
  rfl

theorem frameLayout_length (sof : Byte) (header padded : Bytes) (c : Word) (eof : Byte) :
    (frameLayout sof header padded c eof).length = header.length + padded.length + 12 := by
  rw [frameLayout_eq_frmAssemble, frmAssemble_length, List.length_append]

/-- FRM.ENC with a Header writes the bytes of R143's table for the payload it reads (R146). -/
theorem execFrmEnc_eq_layout {s : State} (h : s.frmHdrv = true) {out : Bytes}
    (hout : frameLayout s.frmSof (headerLayout s.hdr) (padPayload s.readFrame.1.payload)
      (crc32 (headerLayout s.hdr ++ padPayload s.readFrame.1.payload)) s.frmEof = out) :
    execFrmEnc s = .next (((s.readFrame.2.crcRelease.memWrite .wire 0 out).setWireLen
      out.length).complete .ok) := by
  have hhdr : s.readFrame.1.hdr = some s.readHeader := by simp [State.readFrame, h]
  obtain ⟨out', henc, -, e⟩ := execFrmEnc_ok h
  rw [frmEncode_eq hhdr, hdrEncode_readHeader] at henc
  rw [frameLayout_eq_frmAssemble] at hout
  obtain rfl : out = out' := hout.symm.trans (Except.ok.inj henc)
  exact e

/-- Settles O18: the bytes written are those of the frame table, and a write leaves the bytes outside its range. -/
theorem frmEncWritesTheFrameBytes : Obligations.FrmEncWritesTheFrameBytes := by
  obtain ⟨-, -, henc, -⟩ := commandWordsDecode
  refine ⟨henc, fun s => ⟨fun h => ?_, fun h => ⟨_, execFrmEnc_fail h, rfl, rfl⟩⟩⟩
  have hread : ReadFrom s.pay s.payLen.toNat s.readFrame.1.payload :=
    s.pay.readFrom_readAll s.payLen.toNat s.draws
  have hlayout := execFrmEnc_eq_layout h rfl
  have hlen := frameLayout_length s.frmSof (headerLayout s.hdr)
    (padPayload s.readFrame.1.payload)
    (crc32 (headerLayout s.hdr ++ padPayload s.readFrame.1.payload)) s.frmEof
  have hhlen : (headerLayout s.hdr).length = 24 := rfl
  rw [padPayload_length, hread.1, hhlen] at hlen
  generalize hout : frameLayout _ _ _ _ _ = out at hlayout hlen
  refine ⟨s.readFrame.1.payload, _, hread, hlayout, ?_⟩
  intro padded out'
  have hout' : out' = out := hout
  clear_value out'
  subst hout'
  have hbyte := s.wire.byteAt?_putAll 0 out'
  rw [hread.1]
  refine ⟨rfl, by omega, fun hcap => ?_, fun k hk => ?_, fun k hk => ?_, rfl⟩
  · have hmax := Config.payMax_le
    have hpad : padBytes s.payLen.toNat < 4 := Nat.mod_lt _ (by omega)
    exact Nat.mod_eq_of_lt (by omega)
  · exact (hbyte k).trans (if_pos ⟨k.zero_le, by omega⟩)
  · exact (hbyte k).trans (if_neg (by omega))

/-! ### FRM.ENC under other PAY contents -/

/-- The machine with other PAY contents. -/
def State.withPay (s : State) (m : Memory) : State :=
  { s with pay := m }

/-- A read of the Frame takes from PAY the bytes below PAY_LEN only (R40). -/
theorem State.readFrame_withPay {s : State} {m : Memory}
    (h : ∀ k, k < s.payLen.toNat → m.byteAt? k = s.pay.byteAt? k) :
    (s.withPay m).readFrame = (s.readFrame.1, s.readFrame.2.withPay m) := by
  have e : m.readAll 0 s.payLen.toNat s.draws = s.pay.readAll 0 s.payLen.toNat s.draws :=
    m.readAll_congr s.pay 0 _ s.draws fun k hk => by rw [Nat.zero_add]; exact h k hk
  simp only [State.readFrame, State.withPay, State.memRead, State.buf_pay, e]
  rfl

/-- The commit of FRM.ENC touches no PAY byte (R146). -/
theorem State.commitFrmEnc_withPay (s : State) (m : Memory) (out : Bytes) :
    (((s.withPay m).crcRelease.memWrite .wire 0 out).setWireLen out.length).complete .ok =
      (((s.crcRelease.memWrite .wire 0 out).setWireLen out.length).complete .ok).withPay m := rfl

/-- Settles O35: FRM.ENC reads PAY in its read of the Frame only, and writes WIRE only. -/
theorem frmEncIgnoresBytesPastPayLen : Obligations.FrmEncIgnoresBytesPastPayLen := by
  intro s m h
  change ∃ t, execFrmEnc s = .next t ∧ execFrmEnc (s.withPay m) = .next (t.withPay m)
  simp only [execFrmEnc, State.readFrame_withPay h, State.runCrc_fst, State.runCrc_snd,
    State.commitFrmEnc_withPay]
  cases s.readFrame.1.hdr with
  | none => exact ⟨_, rfl, rfl⟩
  | some hd => exact ⟨_, rfl, rfl⟩

end Sys2Proof.Machine
end

section
/-! PROOFS. The FIP codec and its two commands, and the host-side classification (O21, O22, O26, O30, O48). -/

namespace Sys2Proof.Machine

/-! ### Fields of a byte -/

/-- One bit of a value as the field of width 1 at its position (R10). -/
theorem ofBool_getLsbD_eq_extractLsb' {w : Nat} (x : BitVec w) (i : Nat) :
    BitVec.ofBool (x.getLsbD i) = x.extractLsb' i 1 := by
  ext j hj
  obtain rfl : j = 0 := by omega
  simp only [BitVec.getElem_ofBool, BitVec.getElem_extractLsb', Nat.add_zero]

/-- A mask of `n` ones from bit `i` on selects the field there (R10). -/
theorem and_mask_eq_zero_iff {w : Nat} (x : BitVec w) (i n : Nat) :
    x &&& (BitVec.allOnes n).setWidth w <<< i = 0#w ↔ x.extractLsb' i n = 0#n := by
  simp only [BitVec.eq_of_getLsbD_eq_iff, BitVec.getLsbD_and, BitVec.getLsbD_shiftLeft,
    BitVec.getLsbD_setWidth, BitVec.getLsbD_allOnes, BitVec.getLsbD_extractLsb',
    BitVec.getLsbD_zero]
  constructor
  · intro h j hj
    rcases Nat.lt_or_ge (i + j) w with hw | hw
    · have hbit := h (i + j) hw
      have hjw : j < w := by omega
      have hij : ¬ i + j < i := by omega
      simpa only [hw, hij, hjw, hj, Nat.add_sub_cancel_left, decide_true, decide_false,
        Bool.not_false, Bool.true_and, Bool.and_true] using hbit
    · rw [BitVec.getLsbD_of_ge x _ hw, Bool.and_false]
  · intro h j hj
    by_cases hf : i ≤ j ∧ j - i < n
    · have hbit := h (j - i) hf.2
      rw [Nat.add_sub_cancel' hf.1, decide_eq_true hf.2, Bool.true_and] at hbit
      rw [hbit, Bool.false_and]
    · rcases (by omega : j < i ∨ ¬ j - i < n) with hlt | hge
      · simp only [hlt, decide_true, Bool.not_true, Bool.and_false, Bool.false_and]
      · simp only [hge, decide_false, Bool.and_false]

/-- The byte's upper nibble as a 4-bit field and as a shifted byte (R171). -/
theorem ushiftRight_four_eq_iff (x : Byte) (v : BitVec 4) :
    x >>> 4 = v.setWidth 8 ↔ x.extractLsb' 4 4 = v := by
  have hx := x.isLt
  have hv := v.isLt
  rw [← BitVec.toNat_inj, ← BitVec.toNat_inj, BitVec.toNat_ushiftRight, BitVec.toNat_setWidth,
    BitVec.extractLsb'_toNat, Nat.shiftRight_eq_div_pow,
    Nat.mod_eq_of_lt (by omega), Nat.mod_eq_of_lt (by omega)]

/-! ### The FIP table (R171) -/

/-- The record's fields as the registers hold them (R40). -/
def FipFrame.regs (f : FipFrame) : FipRegs :=
  { ver := f.version, proto := f.proto, sub := f.subcode, dll := f.dll, fpma := f.fpma,
    spma := f.spma, afl := f.afl, sol := f.sol, fcf := f.fcf }

theorem FipFrame.regs_injective : Function.Injective FipFrame.regs := by
  rintro ⟨⟩ ⟨⟩ h
  cases h
  rfl

theorem State.readFip_regs (s : State) : s.readFip.regs = s.fip := rfl

/-- The FIP registers that ten wire bytes give (R171, R178). -/
def fipRegsAt (b : Bytes) : FipRegs :=
  { ver := (byteAt b 0).extractLsb' 4 4, proto := byteAt b 2 ++ byteAt b 3, sub := byteAt b 5,
    dll := byteAt b 6 ++ byteAt b 7, fpma := (byteAt b 8).getLsbD 7,
    spma := (byteAt b 8).getLsbD 6, afl := (byteAt b 9).getLsbD 2, sol := (byteAt b 9).getLsbD 1,
    fcf := (byteAt b 9).getLsbD 0 }

/-- Every reserved bit of the first ten bytes is zero (R171, R177). -/
def FipReservedClear (b : Bytes) : Prop :=
  ∀ k, k < 10 → byteAt b k &&& byteAt fipReservedMask k = 0#8

/-- The reserved fields, byte by byte (R171). -/
theorem fipReservedClear_iff (b : Bytes) : FipReservedClear b ↔
    (byteAt b 0).extractLsb' 0 4 = 0#4 ∧ byteAt b 1 = 0#8 ∧ byteAt b 4 = 0#8 ∧
      (byteAt b 8).extractLsb' 0 6 = 0#6 ∧ (byteAt b 9).extractLsb' 3 5 = 0#5 := by
  have whole (x : Byte) : x &&& 0xFF#8 = 0#8 ↔ x = 0#8 := by
    rw [show x &&& 0xFF#8 = x from BitVec.and_allOnes]
  constructor
  · intro h
    exact ⟨(and_mask_eq_zero_iff _ 0 4).1 (h 0 (by decide)), (whole _).1 (h 1 (by decide)),
      (whole _).1 (h 4 (by decide)), (and_mask_eq_zero_iff _ 0 6).1 (h 8 (by decide)),
      (and_mask_eq_zero_iff _ 3 5).1 (h 9 (by decide))⟩
  · rintro ⟨h0, h1, h4, h8, h9⟩ k hk
    match k, hk with
    | 0, _ => exact (and_mask_eq_zero_iff _ 0 4).2 h0
    | 1, _ => exact (whole _).2 h1
    | 4, _ => exact (whole _).2 h4
    | 8, _ => exact (and_mask_eq_zero_iff _ 0 6).2 h8
    | 9, _ => exact (and_mask_eq_zero_iff _ 3 5).2 h9
    | 2, _ | 3, _ | 5, _ | 6, _ | 7, _ => exact BitVec.and_zero

/-- A layout has no reserved bit set (R171, R172). -/
theorem fipReservedClear_fipLayout (r : FipRegs) : FipReservedClear (fipLayout r) := by
  rw [fipReservedClear_iff]
  refine ⟨BitVec.extractLsb'_append_eq_right, rfl, rfl, BitVec.extractLsb'_append_eq_right, ?_⟩
  change (0#5 ++ BitVec.ofBool r.afl ++ BitVec.ofBool r.sol ++
    BitVec.ofBool r.fcf).extractLsb' 3 5 = 0#5
  rw [BitVec.append_assoc, BitVec.append_assoc]
  exact BitVec.extractLsb'_append_eq_left

/-- The flags of byte 8 by position (R171). -/
theorem getLsbD_fipByte8 : ∀ fpma spma : Bool,
    (BitVec.ofBool fpma ++ BitVec.ofBool spma ++ 0#6).getLsbD 7 = fpma ∧
      (BitVec.ofBool fpma ++ BitVec.ofBool spma ++ 0#6).getLsbD 6 = spma := by
  decide

/-- The flags of byte 9 by position (R171). -/
theorem getLsbD_fipByte9 : ∀ afl sol fcf : Bool,
    (0#5 ++ BitVec.ofBool afl ++ BitVec.ofBool sol ++ BitVec.ofBool fcf).getLsbD 2 = afl ∧
      (0#5 ++ BitVec.ofBool afl ++ BitVec.ofBool sol ++ BitVec.ofBool fcf).getLsbD 1 = sol ∧
      (0#5 ++ BitVec.ofBool afl ++ BitVec.ofBool sol ++ BitVec.ofBool fcf).getLsbD 0 = fcf := by
  decide

/-- The layout of registers gives the registers back (R171, R181). -/
theorem fipRegsAt_fipLayout (r : FipRegs) : fipRegsAt (fipLayout r) = r := by
  have hver : (r.ver ++ 0#4).extractLsb' 4 4 = r.ver := BitVec.extractLsb'_append_eq_left
  obtain ⟨hfpma, hspma⟩ := getLsbD_fipByte8 r.fpma r.spma
  obtain ⟨hafl, hsol, hfcf⟩ := getLsbD_fipByte9 r.afl r.sol r.fcf
  simp only [fipRegsAt, fipLayout, byteAt, List.getD_cons_zero, List.getD_cons_succ, append_be16]
  rw [hver, hfpma, hspma, hafl, hsol, hfcf]

/-- Byte 8 is its two flags and its reserved field (R171). -/
theorem append_fipByte8 (x : Byte) : BitVec.ofBool (x.getLsbD 7) ++ BitVec.ofBool (x.getLsbD 6) ++
    x.extractLsb' 0 6 = x := by
  rw [ofBool_getLsbD_eq_extractLsb', ofBool_getLsbD_eq_extractLsb', extractLsb'_append_next x 6 1 1,
    extractLsb'_append_next x 0 2 6, BitVec.extractLsb'_eq_self]

/-- Byte 9 is its reserved field and its three flags (R171). -/
theorem append_fipByte9 (x : Byte) : x.extractLsb' 3 5 ++ BitVec.ofBool (x.getLsbD 2) ++
    BitVec.ofBool (x.getLsbD 1) ++ BitVec.ofBool (x.getLsbD 0) = x := by
  rw [ofBool_getLsbD_eq_extractLsb', ofBool_getLsbD_eq_extractLsb', ofBool_getLsbD_eq_extractLsb',
    extractLsb'_append_next x 2 5 1, extractLsb'_append_next x 1 6 1,
    extractLsb'_append_next x 0 7 1, BitVec.extractLsb'_eq_self]

/-- Ten bytes without a reserved bit are the layout of the registers they give (R171, R181). -/
theorem fipLayout_fipRegsAt {b : Bytes} (hb : b.length = 10) (h : FipReservedClear b) :
    fipLayout (fipRegsAt b) = b := by
  obtain ⟨h0, h1, h4, h8, h9⟩ := (fipReservedClear_iff b).1 h
  have e0 : (byteAt b 0).extractLsb' 4 4 ++ (byteAt b 0).extractLsb' 0 4 = byteAt b 0 := by
    rw [extractLsb'_append_next (byteAt b 0) 0 4 4, BitVec.extractLsb'_eq_self]
  have e8 := append_fipByte8 (byteAt b 8)
  have e9 := append_fipByte9 (byteAt b 9)
  rw [h0] at e0
  rw [h8] at e8
  rw [h9] at e9
  have hbytes := map_byteAt_range b
  rw [hb] at hbytes
  simp only [List.range, List.range.loop, List.map, h1, h4] at hbytes
  simp only [fipLayout, fipRegsAt, BitVec.extractLsb'_append_eq_left,
    BitVec.extractLsb'_append_eq_right, e0, e8, e9]
  exact hbytes

/-! ### The FIP codec (R172, R178, R181) -/

/-- The shifts of R173 put FPMA and SPMA where the table has them (R171). -/
theorem FipFrame.flagByte8_eq (f : FipFrame) :
    f.flagByte8 = BitVec.ofBool f.fpma ++ BitVec.ofBool f.spma ++ 0#6 := by
  rw [FipFrame.flagByte8]
  cases f.fpma <;> cases f.spma <;> rfl

/-- The shifts of R173 put AFL, SOL and FCF where the table has them (R171). -/
theorem FipFrame.flagByte9_eq (f : FipFrame) :
    f.flagByte9 = 0#5 ++ BitVec.ofBool f.afl ++ BitVec.ofBool f.sol ++ BitVec.ofBool f.fcf := by
  rw [FipFrame.flagByte9]
  cases f.afl <;> cases f.sol <;> cases f.fcf <;> rfl

/-- fipEncode of the supported version lays out the record's fields (R171, R172, R173). -/
theorem fipEncode_eq {f : FipFrame} (h : f.version = Config.fipVersion) :
    fipEncode f = .ok (fipLayout f.regs) := by
  rw [fipEncode, if_neg (not_not_intro h), f.flagByte8_eq, f.flagByte9_eq]
  rfl

/-- fipDecode rejects a version other than 1 and a reserved bit that is set (R176, R177). -/
theorem fipBad_eq_false_iff (b : Bytes) :
    fipBad b = false ↔ (fipRegsAt b).ver = Config.fipVersion ∧ FipReservedClear b := by
  simp only [fipBad, fipReservedClear_iff, fipRegsAt, Bool.or_eq_false_iff, bne_eq_false_iff_eq,
    and_assoc]

/-- The same in the terms of the mask of the table (R171, R176, R177). -/
theorem fipBad_iff (b : Bytes) : fipBad b = true ↔
    byteAt b 0 >>> 4 ≠ 1#8 ∨ ∃ k, k < 10 ∧ byteAt b k &&& byteAt fipReservedMask k ≠ 0#8 := by
  have hver : byteAt b 0 >>> 4 = 1#8 ↔ (fipRegsAt b).ver = Config.fipVersion :=
    ushiftRight_four_eq_iff _ 1#4
  rw [← Bool.not_eq_false, fipBad_eq_false_iff, ← hver, Classical.not_and_iff_not_or_not,
    FipReservedClear]
  simp only [Classical.not_forall, exists_prop, ne_eq]

/-- What fipDecode accepts and answers (R171, R175 to R178). -/
theorem fipDecode_eq_ok_iff {b : Bytes} (hb : 10 ≤ b.length) (f : FipFrame) :
    fipDecode b = .ok f ↔ fipBad b = false ∧ f.regs = fipRegsAt b := by
  rw [fipDecode, if_neg (by omega), ofNat_unbe_slice2 b (i := 2) (by omega),
    ofNat_unbe_slice2 b (i := 6) (by omega)]
  cases fipBad b with
  | true => simp only [reduceIte, reduceCtorEq, Bool.true_eq_false, false_and]
  | false =>
    simp only [Bool.false_eq_true, if_false, Except.ok.injEq, true_and]
    rw [eq_comm, ← FipFrame.regs_injective.eq_iff]
    rfl

/-- Settles O26: both directions are the round trip between registers and their layout. -/
theorem fipRoundTrip : Obligations.FipRoundTrip := by
  refine ⟨fun f hf => ⟨_, fipEncode_eq hf, ?_⟩, fun b f hb hd => ?_, fun f hf => fipEncode_error hf⟩
  · have hregs := fipRegsAt_fipLayout f.regs
    have hver : (fipRegsAt (fipLayout f.regs)).ver = Config.fipVersion := by
      rw [hregs]; exact hf
    exact (fipDecode_eq_ok_iff (b := fipLayout f.regs) (Nat.le_refl 10) f).2
      ⟨(fipBad_eq_false_iff _).2 ⟨hver, fipReservedClear_fipLayout f.regs⟩, hregs.symm⟩
  · obtain ⟨hok, hregs⟩ := (fipDecode_eq_ok_iff (Nat.le_of_eq hb.symm) f).1 hd
    obtain ⟨hver, hclear⟩ := (fipBad_eq_false_iff b).1 hok
    rw [← hregs] at hver
    rw [fipEncode_eq hver, hregs, fipLayout_fipRegsAt hb hclear]

/-! ### FIP.ENC and FIP.DEC -/

/-- FIP.ENC of version 1 sets STATUS and WIRE_LEN and writes the ten bytes of the FIP table (R171, R174). -/
theorem execFipEnc_eq {s : State} (h : s.fip.ver = Config.fipVersion) :
    execFipEnc s = .next { s with engine := .idle (some .ok), wireLen := 10#17,
                                  wire := s.wire.putAll 0 (fipLayout s.fip) } := by
  rw [execFipEnc, fipEncode_eq (f := s.readFip) h, State.readFip_regs]
  rfl

/-- A sequence written from offset 0 on: its bytes there, and the old contents past its end (R68). -/
theorem Memory.byteAt?_putAll_zero (m : Memory) (v : Bytes) :
    (∀ k, k < v.length → (m.putAll 0 v).byteAt? k = v[k]?) ∧
      ∀ k, v.length ≤ k → (m.putAll 0 v).byteAt? k = m.byteAt? k :=
  ⟨fun k hk => (m.byteAt?_putAll 0 v k).trans (if_pos ⟨k.zero_le, by omega⟩),
    fun k hk => (m.byteAt?_putAll 0 v k).trans (if_neg (by omega))⟩

/-- Settles O21: the ten bytes written are those of the FIP table, and a write leaves the bytes outside its range. -/
theorem fipEncWritesTheTenBytes : Obligations.FipEncWritesTheTenBytes := by
  obtain ⟨-, -, -, -, henc, -⟩ := commandWordsDecode
  refine ⟨henc, fun s => ⟨fun hver => ?_, fun hver => ⟨_, execFipEnc_fail hver, rfl, rfl⟩⟩⟩
  obtain ⟨hin, hout⟩ := s.wire.byteAt?_putAll_zero (fipLayout s.fip)
  exact ⟨_, execFipEnc_eq hver, rfl, rfl, rfl, hin, hout, rfl⟩

/-- FIP.DEC on ten bytes that it rejects changes STATUS and the free values taken only (R180). -/
theorem execFipDec_of_bad {s : State} (h : 10 ≤ s.wireLen.toNat)
    (hb : fipBad (s.memRead .wire 0 10).1 = true) :
    execFipDec s = .next ((s.memRead .wire 0 10).2.complete .invalidFrame) := by
  rcases execFipDec_cases h with ⟨-, e⟩ | ⟨hok, -⟩
  · exact e
  · cases hb.symm.trans hok

/-- FIP.DEC on ten bytes that it accepts writes the FIP registers by the FIP table (R171, R180). -/
theorem execFipDec_of_ok {s : State} (h : 10 ≤ s.wireLen.toNat)
    (hb : fipBad (s.memRead .wire 0 10).1 = false) :
    execFipDec s = .next { s with engine := .idle (some .ok),
                                  fip := fipRegsAt (s.memRead .wire 0 10).1,
                                  draws := (s.memRead .wire 0 10).2.draws } := by
  rcases execFipDec_cases h with ⟨hbad, -⟩ | ⟨-, f, hd, e⟩
  · cases hb.symm.trans hbad
  · have hlen : 10 ≤ (s.memRead .wire 0 10).1.length := 
      Nat.le_of_eq (Memory.readAll_length ..).symm
    obtain ⟨-, hregs⟩ := (fipDecode_eq_ok_iff hlen f).1 hd
    rw [e, ← hregs]
    rfl

/-- Settles O22: the bytes are those that FIP.DEC's own read of WIRE answers. -/
theorem fipDecReadsTheTenBytes : Obligations.FipDecReadsTheTenBytes := by
  obtain ⟨-, -, -, -, -, hdec, -⟩ := commandWordsDecode
  refine ⟨hdec, fun s => ⟨fun hshort => ⟨_, execFipDec_short hshort, rfl, rfl⟩, fun h => ?_⟩⟩
  have hread := s.wire.readFrom_readAll 10 s.draws
  have hbad := fipBad_iff (s.memRead .wire 0 10).1
  cases hb : fipBad (s.memRead .wire 0 10).1 with
  | true =>
    exact ⟨_, _, hread, execFipDec_of_bad h hb, fun _ => ⟨rfl, rfl⟩,
      fun hok => absurd (hbad.1 hb) hok⟩
  | false =>
    obtain ⟨hver, -⟩ := (fipBad_eq_false_iff _).1 hb
    refine ⟨_, _, hread, execFipDec_of_ok h hb, fun h' => ?_,
      fun _ => ⟨rfl, hver, rfl, rfl, rfl, rfl, rfl, rfl, rfl, rfl, rfl⟩⟩
    cases hb.symm.trans (hbad.2 h')

/-! ### Corrupted FIP buffers -/

/-- Flipping a bit turns that bit over (R10). -/
theorem getLsbD_flipBit (b : Bytes) {k j : Nat} (hk : k < b.length) (hj : j < 8) :
    (byteAt (flipBit b k j) k).getLsbD j = !(byteAt b k).getLsbD j := by
  rw [flipBit, byteAt_set_self b hk]
  simp only [BitVec.getLsbD_xor, BitVec.getLsbD_shiftLeft, hj, Nat.lt_irrefl, Nat.sub_self,
    BitVec.getLsbD_one, decide_true, decide_false, Bool.not_false, Bool.and_self, Bool.bne_true,
    Nat.zero_lt_succ]

/-- A reserved bit that is set makes the buffer one that fipDecode rejects (R177). -/
theorem fipBad_of_reserved_bit {b : Bytes} {k j : Nat} (hk : k < 10)
    (hm : (byteAt fipReservedMask k).getLsbD j = true) (hb : (byteAt b k).getLsbD j = true) :
    fipBad b = true := by
  refine (fipBad_iff b).2 (.inr ⟨k, hk, fun h0 => ?_⟩)
  have hbit := congrArg (BitVec.getLsbD · j) h0
  simp only [BitVec.getLsbD_and, hb, hm, Bool.and_self, BitVec.getLsbD_zero, Bool.true_eq_false] at hbit

/-- A reserved bit of an accepted buffer is clear (R177). -/
theorem reserved_bit_of_fipDecode {b : Bytes} {f : FipFrame} {k j : Nat} (hb : 10 ≤ b.length)
    (hd : fipDecode b = .ok f) (hk : k < 10) (hm : (byteAt fipReservedMask k).getLsbD j = true) :
    (byteAt b k).getLsbD j = false := by
  obtain ⟨hok, -⟩ := (fipDecode_eq_ok_iff hb f).1 hd
  cases hset : (byteAt b k).getLsbD j with
  | false => rfl
  | true => cases hok.symm.trans (fipBad_of_reserved_bit hk hm hset)

/-- Settles O30: the flipped bit was clear, so it is set, and a set reserved bit is rejected. -/
theorem anyReservedFipBitIsRejected : Obligations.AnyReservedFipBitIsRejected := by
  refine ⟨by decide, fun b f k j s hb hd hk hj hm hw => ?_⟩
  have hset : (byteAt (flipBit b k j) k).getLsbD j = true := by
    rw [getLsbD_flipBit b (by omega) hj,
      reserved_bit_of_fipDecode (Nat.le_of_eq hb.symm) hd hk hm, Bool.not_false]
  have hlen : (flipBit b k j).length = 10 := (flipBit_length b k j).trans hb
  have hread := hw.memRead
  rw [hlen] at hread
  have e := execFipDec_of_bad (s := s) (Nat.le_of_eq (hw.1.trans hlen).symm)
    (by rw [hread]; exact fipBad_of_reserved_bit hk hm hset)
  exact ⟨hset, _, e, rfl, rfl⟩

/-! ### The host-side classification -/

/-- Settles O48: each of the three points is a branch of its own (R185). -/
theorem classifyOpFixedPoints : Obligations.ClassifyOpFixedPoints :=
  ⟨if_pos ⟨rfl, rfl⟩,
    (if_neg (by decide)).trans (if_pos ⟨rfl, rfl⟩),
    (if_neg (by decide)).trans ((if_neg (by decide)).trans (if_pos ⟨rfl, rfl⟩))⟩

end Sys2Proof.Machine
end

section
/-! PROOFS. The statuses a command can complete with (O9), and that a failure leaves everything but STATUS as it was (O10). -/

namespace Sys2Proof.Machine

/-- The statuses that the command's own rule lets it complete with (R124, R126, R146, R157, R174, R180). -/
def allowedStatuses : Instr → List Status
  | .hdrEnc => [.ok]
  | .hdrDec => [.ok, .lengthMismatch]
  | .frmEnc => [.ok, .missingHeader]
  | .frmDec => [.ok, .bufferTooShort, .invalidFrame, .invalidCrc]
  | .fipEnc => [.ok, .invalidVersion]
  | .fipDec => [.ok, .bufferTooShort, .invalidFrame]

/-- Every command completes with one of the statuses of its rule (R200). -/
theorem exec_status_mem_allowedStatuses (i : Instr) (s : State) :
    ∃ t st, exec i s = .next t ∧ t.engine = .idle (some st) ∧ st ∈ allowedStatuses i := by
  cases i with
  | hdrEnc => exact ⟨_, .ok, rfl, rfl, by decide⟩
  | hdrDec =>
    by_cases h24 : s.wireLen.toNat = 24
    · obtain ⟨_, -, e⟩ := execHdrDec_ok h24
      exact ⟨_, .ok, e, rfl, by decide⟩
    · exact ⟨_, .lengthMismatch, execHdrDec_fail h24, rfl, by decide⟩
  | frmEnc =>
    cases hv : s.frmHdrv with
    | true =>
      obtain ⟨_, -, -, e⟩ := execFrmEnc_ok hv
      exact ⟨_, .ok, e, rfl, by decide⟩
    | false => exact ⟨_, .missingHeader, execFrmEnc_fail hv, rfl, by decide⟩
  | frmDec =>
    rcases execFrmDec_cases s with ⟨st, hc, -, e⟩ | ⟨-, -, e⟩ | ⟨-, _, _, -, -, -, e⟩
    · refine ⟨_, st, e, rfl, ?_⟩
      rcases frmCheck_some hc with ⟨-, rfl⟩ | ⟨-, rfl⟩
      · decide
      · decide
    · exact ⟨_, .invalidCrc, e, rfl, by decide⟩
    · exact ⟨_, .ok, e, rfl, by decide⟩
  | fipEnc =>
    by_cases hver : s.fip.ver = Config.fipVersion
    · obtain ⟨_, -, -, e⟩ := execFipEnc_ok hver
      exact ⟨_, .ok, e, rfl, by decide⟩
    · exact ⟨_, .invalidVersion, execFipEnc_fail hver, rfl, by decide⟩
  | fipDec =>
    rcases Nat.lt_or_ge s.wireLen.toNat 10 with h10 | h10
    · exact ⟨_, .bufferTooShort, execFipDec_short h10, rfl, by decide⟩
    · rcases execFipDec_cases h10 with ⟨-, e⟩ | ⟨-, _, -, e⟩
      · exact ⟨_, .invalidFrame, e, rfl, by decide⟩
      · exact ⟨_, .ok, e, rfl, by decide⟩

/-- A word that selects no command completes with BAD_OP and does nothing else (R83). -/
theorem runWord_of_selects_none {w : Word} (h : ∀ i, decodeCmd w ≠ .ok i) (s : State) :
    runWord w s = .next (s.complete .badOp) := by
  rcases runWord_cases w s with ⟨i, hi, -⟩ | ⟨_, -, e⟩
  · exact absurd hi (h i)
  · exact e

/-- Settles O9: the obligation's list pairs each of a command's statuses with the STATUS word that shows it. -/
theorem everyCommandCompletesWithOneStatus : Obligations.EveryCommandCompletesWithOneStatus := by
  unfold Obligations.EveryCommandCompletesWithOneStatus
  intro allowed
  have hallowed : ∀ i, allowed i =
      (allowedStatuses i).map fun st => (st, (Engine.idle (some st)).statusWord) := by
    intro i
    cases i <;> rfl
  refine ⟨fun i s => ?_, fun w s h => ⟨_, runWord_of_selects_none h s, rfl, rfl⟩⟩
  obtain ⟨t, st, e, hst, hmem⟩ := exec_status_mem_allowedStatuses i s
  refine ⟨t, st, _, e, hst, rfl, ?_⟩
  rw [hallowed, State.statusWord_of_engine, hst]
  exact List.mem_map_of_mem hmem

/-- Settles O10: a command ends as a failure, whose frame is the statement, or with OK. -/
theorem failedCommandChangesOnlyStatus : Obligations.FailedCommandChangesOnlyStatus := by
  refine ⟨fun i s t st h hst hne => ?_, fun w s h => runWord_of_selects_none h s⟩
  obtain ⟨_, e, hends⟩ := exec_ends i s
  cases h.symm.trans e
  rcases hends with ⟨st', d, c, -, rfl⟩ | hok
  · cases hst; rfl
  · cases hst.symm.trans hok.engine
    exact absurd rfl hne

end Sys2Proof.Machine
end

section
/-! PROOFS. What BUSY means to the host: reads that say nothing (O43), writes that are refused (O44), the end by reset (O2), and the end within a bound (O8). -/

namespace Sys2Proof.Machine

/-! ### Reset -/

/-- Settles O2: the state is R41's, held in reset. -/
theorem resetAbortsTheCommand : Obligations.ResetAbortsTheCommand := by
  intro s rest hin
  have clean : (State.driveReset { s with inputs := rest } true).Cleared := rfl
  exact ⟨_, step_cons hin, rfl, rfl, clean.engine, clean.readReg, Memory.byteAt?_nil,
    Memory.byteAt?_nil⟩

/-! ### Host accesses while BUSY -/

/-- Settles O44: a write that reaches something is refused for BUSY, any other one for its access. -/
theorem busyWritesAreRefused : Obligations.BusyWritesAreRefused := by
  intro s bits a v rest hb hin
  rw [step_cons hin]
  rcases State.hostWrite_cases { s with inputs := rest } bits a v with
    ⟨e, -, h⟩ | ⟨-, h⟩ | ⟨hidle, -⟩ | ⟨hidle, -⟩
  · exact ⟨e, h⟩
  · exact ⟨_, h⟩
  · exact absurd (hidle.symm.trans hb) nofun
  · exact absurd (hidle.symm.trans hb) nofun

theorem State.statusWord_of_isBusy {s : State} (hb : s.isBusy = true) :
    s.statusWord = 0x00000001#32 := by
  rw [State.statusWord_of_engine]
  rw [State.isBusy_of_engine] at hb
  cases he : s.engine with
  | idle l => rw [he] at hb; cases hb
  | busy w n => exact Engine.statusWord_busy w n

/-- While BUSY every target but STATUS and CMD reads as the next free word (R241). -/
theorem State.readTarget_eq_drawWord {s : State} (hb : s.isBusy = true) {tg : Target}
    (hcmd : tg ≠ .reg .cmd) (hstatus : tg ≠ .reg .status) : s.readTarget tg = s.drawWord := by
  cases tg with
  | window buf k => exact if_pos hb
  | reg r =>
    cases r with
    | cmd => exact absurd rfl hcmd
    | status => exact absurd rfl hstatus
    | _ => exact if_pos hb

/-- Settles O43: STATUS and CMD are read without a free value, and every other target takes one. -/
theorem busyReadsSayNothing : Obligations.BusyReadsSayNothing := by
  intro s a rest hr hb hin
  refine ⟨fun ha => ?_, fun ha => ?_, fun hstatus hcmd hm => ?_⟩
  · subst ha
    exact step_read hr hin (Reg.offset_lt .status).1 (target?_offset .status)
      (Prod.ext (State.statusWord_of_isBusy hb) rfl)
  · subst ha
    exact step_read hr hin (Reg.offset_lt .cmd).1 (target?_offset .cmd) rfl
  · obtain ⟨h4, tg, ht⟩ := (mapped_iff a).1 hm
    have hne : ∀ r : Reg, a ≠ r.offset → tg ≠ .reg r := by
      rintro r ha rfl
      exact ha (target?_eq_reg ht).symm
    exact step_read hr hin h4 ht (State.readTarget_eq_drawWord (s := { s with inputs := rest }) hb
      (hne .cmd hcmd) (hne .status hstatus))

/-! ### The end of BUSY -/

/-- `t` is a state in which the command has ended: with a status, or by one of the events `es` that asserts the reset input (R232). -/
def CommandEnded (es : List HostEvent) (t : State) : Prop :=
  (∃ st, t.engine = .idle (some st)) ∨ (.resetInput true ∈ es ∧ t.engine = .idle none)

theorem CommandEnded.isBusy {es : List HostEvent} {t : State} (h : CommandEnded es t) :
    t.isBusy = false := by
  rw [State.isBusy_of_engine]
  rcases h with ⟨st, he⟩ | ⟨-, he⟩
  · rw [he]; rfl
  · rw [he]; rfl

theorem CommandEnded.status {es : List HostEvent} {t : State} (h : CommandEnded es t)
    (hes : .resetInput true ∉ es) : ∃ st, t.engine = .idle (some st) :=
  h.resolve_right fun ⟨hmem, _⟩ => hes hmem

theorem CommandEnded.mono {es es' : List HostEvent} {t : State} (h : CommandEnded es t)
    (hsub : es ⊆ es') : CommandEnded es' t :=
  h.imp_right fun ⟨hmem, he⟩ => ⟨hsub hmem, he⟩

/-- The completion of a latched word leaves a status. -/
theorem runWord_engine {w : Word} {s t : State} (h : runWord w s = .next t) :
    ∃ st, t.engine = .idle (some st) := by
  rcases runWord_ends h with hfail | ⟨i, -, hok⟩
  · exact hfail.engine
  · exact ⟨.ok, hok.engine⟩

/-- `t` is BUSY with the word `w`, out of reset, after one event or one cycle of those that `s` and its `n` cycles still held. -/
structure StillBusy (w : Word) (n : Nat) (s t : State) : Prop where
  out     : t.inReset = false
  inputs  : t.inputs = s.inputs.tail
  counted : ∃ m, t.engine = .busy w m ∧ t.inputs.length + m < s.inputs.length + n

/-- A cycle of a BUSY engine with no event left ends the command or counts it down. -/
theorem step_of_busy_nil {s t : State} {w : Word} {n : Nat} (hr : s.inReset = false)
    (he : s.engine = .busy w n) (hin : s.inputs = []) (h : step s = .next t) :
    CommandEnded s.inputs t ∨ StillBusy w n s t := by
  rw [step_nil hin] at h
  rcases Nat.lt_or_ge 1 n with hn | hn
  · obtain ⟨m, rfl⟩ := Nat.exists_eq_add_of_le' hn
    cases (engineCycle_of_more hr he).symm.trans h
    exact .inr ⟨hr, by rw [hin]; rfl, m + 1, rfl, by dsimp only; omega⟩
  · exact .inl (.inl (runWord_engine ((engineCycle_of_last hr he hn).symm.trans h)))

/-- Each step of a BUSY engine ends the command or leaves less to serve: while events are left it takes one of them and the engine does not count up. -/
theorem step_of_busy {s t : State} {w : Word} {n : Nat} (hr : s.inReset = false)
    (he : s.engine = .busy w n) (h : step s = .next t) :
    CommandEnded s.inputs t ∨ StillBusy w n s t := by
  by_cases hin : s.inputs = []
  · exact step_of_busy_nil hr he hin h
  have hpos : 0 < s.inputs.length := List.length_pos_iff.2 hin
  have hlen : s.inputs.tail.length + n < s.inputs.length + n := by
    rw [List.length_tail]; omega
  have hbusy : s.isBusy = true := by rw [State.isBusy_of_engine, he]; rfl
  cases Transition.of_step h with
  | still d rs => exact .inr ⟨hr, rfl, n, he, hlen⟩
  | regWrite r v hr' hb => exact absurd (hb.symm.trans hbusy) nofun
  | windowWrite a buf k v hr' hb => exact absurd (hb.symm.trans hbusy) nofun
  | reset b hev =>
    cases b with
    | true => exact .inl (.inr ⟨by rw [hev]; exact List.mem_cons_self, rfl⟩)
    | false =>
      rw [State.driveReset_false_of_out (s := { s with inputs := s.inputs.tail }) hr]
      exact .inr ⟨hr, rfl, n, he, hlen⟩
  | countDown w' m hr' he' =>
    cases he.symm.trans he'
    exact .inr ⟨hr, rfl, m + 1, rfl, by dsimp only; omega⟩
  | completion w' m hr' he' hm hrun => exact .inl (.inl (runWord_engine hrun))

/-- A BUSY command ends, or the run is refused, once every event and every cycle has been served: by induction on a bound on how many there are. -/
theorem runSteps_of_busy {s : State} {w : Word} {n b : Nat} (hr : s.inReset = false)
    (he : s.engine = .busy w n) (hb : s.inputs.length + n < b) :
    ∃ k ≤ b, (∃ r, runSteps k s = .refused r) ∨
      ((∃ t, runSteps k s = .next t ∧ CommandEnded s.inputs t) ∧
        ∀ j, j < k → ∃ u m, runSteps j s = .next u ∧ u.engine = .busy w m) := by
  induction b generalizing s n with
  | zero => exact absurd hb (Nat.not_lt_zero _)
  | succ b ih =>
    have hfirst : ∃ u m, runSteps 0 s = .next u ∧ u.engine = .busy w m := ⟨s, n, rfl, he⟩
    cases hstep : step s with
    | fault r => exact nomatch r
    | refused r => exact ⟨1, by omega, .inl ⟨r, (runSteps_one s).trans hstep⟩⟩
    | next t =>
      rcases step_of_busy hr he hstep with hend | ⟨hr', hin, m, he', hlt⟩
      · refine ⟨1, by omega, .inr ⟨⟨t, (runSteps_one s).trans hstep, hend⟩, fun j hj => ?_⟩⟩
        rwa [Nat.lt_one_iff.1 hj]
      · obtain ⟨k, hk, hrun⟩ := ih hr' he' (by omega)
        refine ⟨k + 1, by omega, ?_⟩
        rw [runSteps_succ_of_next hstep]
        refine hrun.imp_right fun ⟨⟨u, hu, hend⟩, hall⟩ => ⟨⟨u, hu, ?_⟩, fun j hj => ?_⟩
        · exact hend.mono fun e hmem => List.mem_of_mem_tail (hin ▸ hmem)
        · cases j with
          | zero => exact hfirst
          | succ j =>
            rw [runSteps_succ_of_next hstep]
            exact hall j (Nat.lt_of_succ_lt_succ hj)

/-- Settles O8: the run above ends BUSY, and without an event of the reset input it ends with a status. -/
theorem everyAcceptedCommandCompletes : Obligations.EveryAcceptedCommandCompletes := by
  intro s w n hr he
  obtain ⟨k, hk, hrun⟩ := runSteps_of_busy hr he (Nat.lt_succ_self _)
  refine ⟨⟨k, hk, hrun.imp_right fun ⟨⟨t, ht, hend⟩, _⟩ => ⟨t, ht, hend.isBusy⟩⟩,
    fun hno => ⟨k, hk, hrun.imp_right fun ⟨⟨t, ht, hend⟩, hall⟩ => ⟨?_, hall⟩⟩⟩
  obtain ⟨st, hst⟩ := hend.status (hno true)
  exact ⟨t, st, ht, hst⟩

end Sys2Proof.Machine
end
